-- ==== Sys2Proof/Word.lean ====
section
/-! DEFINITION. The data types of the AES-128 core: bytes, port values, the 16-byte block, the 4-byte word, the 176-byte schedule. -/

namespace Sys2Proof

/-- A byte, bit 7 the most significant (spec/00_scope.md R6). Field addition is `^^^` (spec/44_mixcolumns.md section 1). -/
abbrev Byte := BitVec 8

/-- The value of one of the 128-bit ports key, din, dout (spec/10_state.md R20, R21). -/
abbrev Port := BitVec 128

/-- The 2-bit mode port (spec/10_state.md R20). -/
abbrev Mode := BitVec 2

/-- The 258-bit command word (spec/30_encoding.md R43). -/
abbrev Command := BitVec 258

/-- A word, 4 bytes, byte 0 first; also one column of the block, rows 0 to 3 (spec/20_memory.md R31, R33). -/
abbrev Word := Vector Byte 4

/-- A 16-byte value: the block `BLK[0..15]`, a key, a round key (spec/20_memory.md R31, R34). -/
abbrev Block := Vector Byte 16

/-- The key schedule `SCHED[0..175]`: 44 words, 11 round keys (spec/10_state.md R11). -/
abbrev Schedule := Vector Byte 176

/-- A round index, which is also a round-key index: 0..10 (spec/46_orchestrator.md, "States are round indices 0..10"). -/
abbrev Round := Fin 11

end Sys2Proof
end

