-- ==== Sys2Proof/Machine/AddRoundKey.lean ====
section
/-! DEFINITION. RoundKeyAdd (spec/45_addroundkey.md R71), and XOR of two 16-byte values. -/

namespace Sys2Proof.Machine

/-- `X ⊕ Y` of two 16-byte values, byte by byte. -/
def xorBlock (x y : Block) : Block := Vector.ofFn fun i => x[i] ^^^ y[i]

/-- AddRoundKey: `for i in 0..15: BLK[i] <- BLK[i] XOR X[i]` (spec/45_addroundkey.md R71). -/
def addRoundKey (b x : Block) : Block := xorBlock b x

end Sys2Proof.Machine
end

