-- ==== Sys2Proof/Config.lean ====
section
/-! DEFINITION. What the implementation fixes (the mode codes) and what the spec leaves open (free values without a body). -/

namespace Sys2Proof

/-- MODE_ENC, at the spec's default 0b00 (spec/30_encoding.md R44, 92_eei_decisions.md D3; log 7, DESIGN CHOICE). -/
def Config.modeEnc : Mode := 0b00#2

/-- MODE_DEC, at the spec's default 0b01 (spec/30_encoding.md R44, 92_eei_decisions.md D3; log 7, DESIGN CHOICE). -/
def Config.modeDec : Mode := 0b01#2

/-- Entry 0 of RCON: "unused (a placeholder)", any value (spec/41_keyschedule.md R49, 93_implementation_defined.md U4).
A free value: nothing reads it and nothing can prove what it is (log 8). -/
opaque Config.rconEntry0 : Byte

/-- What a CORE step takes for DIR, true = inverse, where DIR holds no value (spec/93_implementation_defined.md U7: "no
treatment is ever exercised"). A free value, drawn anew at each round index K (log 12). -/
opaque Config.unwrittenDir : BitVec 4 → Bool

/-- What a CORE step takes for BLK where BLK holds no value: a free value at each round index K (log 12). -/
opaque Config.unwrittenBlk : BitVec 4 → Block

/-- What a CORE step takes for SCHED where SCHED holds no value: a free value at each round index K (log 12). -/
opaque Config.unwrittenSched : BitVec 4 → Schedule

/-- LATENCY_CYCLES, the clock cycles from accept to done: OPEN (spec/70_reset_and_hazards.md R98, 92_eei_decisions.md D16).
No rule of the model depends on it (log 9). One number for all operations: it depends on neither key nor block (R99). -/
opaque Config.latencyCycles : Nat

end Sys2Proof
end

