-- ==== Sys2Proof/Machine/Operands.lean ====
section
/-! DEFINITION. How operands are assembled from port bits and how the bytes of block, key and schedule are indexed (spec/20_memory.md R30 to R34, 30_encoding.md R45). -/

namespace Sys2Proof.Machine

/-- The 16 bytes of a port value: byte n is bits [127-8n : 120-8n] (spec/20_memory.md R30, 30_encoding.md R45). -/
def blockOfPort (p : Port) : Block := Vector.ofFn fun n => portByte p n

/-- The port value of 16 bytes, byte 0 most significant (spec/20_memory.md R30; "dout[127 - 8n : 120 - 8n] = DOUT[n]", 30_encoding.md R45). -/
def portOfBlock (b : Block) : Port :=
  b[0] ++ b[1] ++ b[2] ++ b[3] ++ b[4] ++ b[5] ++ b[6] ++ b[7] ++
    b[8] ++ b[9] ++ b[10] ++ b[11] ++ b[12] ++ b[13] ++ b[14] ++ b[15]

/-- The position `4*c + r` of the state byte at row r, column c (spec/20_memory.md R31). -/
def bytePos (r c : Fin 4) : Fin 16 := ⟨4 * c.val + r.val, by omega⟩

/-- The row of a byte position, `n mod 4` (spec/20_memory.md R32). -/
def rowOf (n : Fin 16) : Fin 4 := ⟨n.val % 4, by omega⟩

/-- The column of a byte position, `n div 4` (spec/20_memory.md R32). -/
def colOf (n : Fin 16) : Fin 4 := ⟨n.val / 4, by omega⟩

/-- `S(r, c) = BLK[4*c + r]` (spec/20_memory.md R31). -/
def stateByte (b : Block) (r c : Fin 4) : Byte := b[bytePos r c]

/-- Column c of a 16-byte value, its bytes 4c .. 4c+3; also word c of a key or of a round key (spec/20_memory.md R31, R33). -/
def column (b : Block) (c : Fin 4) : Word := Vector.ofFn fun r => stateByte b r c

/-- The block whose columns are given: the inverse view of `column`. -/
def blockOfColumns (cols : Vector Word 4) : Block := Vector.ofFn fun n => cols[colOf n][rowOf n]

/-- `rk(r)`, the 16 bytes `SCHED[16*r .. 16*r+15]` (spec/20_memory.md R34, 41_keyschedule.md R54). -/
def roundKey (sc : Schedule) (r : Round) : Block :=
  Vector.ofFn fun i => sc[16 * r.val + i.val]'(by omega)

/-- `w[i]`, the 4 bytes `SCHED[4*i .. 4*i+3]`, byte 0 first (spec/20_memory.md R33). -/
def scheduleWord (sc : Schedule) (i : Fin 44) : Word :=
  Vector.ofFn fun j => sc[4 * i.val + j.val]'(by omega)

end Sys2Proof.Machine
end

