-- ==== Sys2Proof/Machine/KeySchedule.lean ====
section
/-! DEFINITION. KeySchedule (spec/41_keyschedule.md R50 to R53): the word operations and KeyExpansion. -/

namespace Sys2Proof.Machine

/-- RotWord: `[t0,t1,t2,t3]` to `[t1,t2,t3,t0]` (spec/41_keyschedule.md R50). -/
def rotWord (t : Word) : Word := #v[t[1], t[2], t[3], t[0]]

/-- SubWord: each byte through SBOX, in both directions of the cipher (spec/41_keyschedule.md R51). -/
def subWord (t : Word) : Word := Vector.ofFn fun j => sbox t[j]

/-- Word XOR (spec/41_keyschedule.md R52). -/
def xorWord (u v : Word) : Word := Vector.ofFn fun j => u[j] ^^^ v[j]

/-- `temp[0] <- temp[0] XOR RCON[j]`: "Only byte 0 of temp receives the round constant" (spec/41_keyschedule.md R53). -/
def xorRcon (t : Word) (j : Fin 11) : Word := #v[t[0] ^^^ rcon j, t[1], t[2], t[3]]

/-- `temp` of the loop body of KeyExpansion at word index i, from `w[i-1]` (spec/41_keyschedule.md R53). The
remainder mod 11 only bounds the index: for i in 4..43 it is i/4 itself. -/
def expansionTemp (i : Nat) (prev : Word) : Word :=
  if i % 4 = 0 then xorRcon (subWord (rotWord prev)) ⟨i / 4 % 11, Nat.mod_lt _ (by decide)⟩ else prev

/-- `n` rounds of the loop of KeyExpansion from word index i on, given `w[i-4] .. w[i-1]`: the words `w[i] .. w[i+n-1]`
(spec/41_keyschedule.md R53, "in increasing order"). -/
def expansionLoop : (n i : Nat) → (w4 w3 w2 w1 : Word) → List Word
  | 0, _, _, _, _, _ => []
  | n + 1, i, w4, w3, w2, w1 =>
    let w := xorWord w4 (expansionTemp i w1)
    w :: expansionLoop n (i + 1) w3 w2 w1 w

theorem expansionLoop_length (n i : Nat) (w4 w3 w2 w1 : Word) :
    (expansionLoop n i w4 w3 w2 w1).length = n := by
  induction n generalizing i w4 w3 w2 w1 with
  | zero => rfl
  | succ n ih => simp [expansionLoop, ih]

/-- The 44 words `w[0..43]` of a key: the four key words, then 40 words of the loop (spec/41_keyschedule.md R53). -/
def expandedWords (key : Block) : List Word :=
  column key 0 :: column key 1 :: column key 2 :: column key 3 ::
    expansionLoop 40 4 (column key 0) (column key 1) (column key 2) (column key 3)

theorem expandedWords_length (key : Block) : (expandedWords key).length = 44 := by
  simp [expandedWords, expansionLoop_length]

/-- KeyExpansion: `SCHED[4i + j] <- w[i][j]` (spec/41_keyschedule.md R53). -/
def keyExpansion (key : Block) : Schedule :=
  Vector.ofFn fun n =>
    ((expandedWords key)[n.val / 4]'(by rw [expandedWords_length]; omega))[n.val % 4]'(by omega)

end Sys2Proof.Machine
end

