-- ==== Sys2Proof/Machine/MixColumns.lean ====
section
/-! DEFINITION. GF(2^8) arithmetic and ColumnMix (spec/44_mixcolumns.md R64 to R69), and the field definition of the S-box entries (spec/42_subbytes.md R58). -/

namespace Sys2Proof.Machine

/-- xtime, multiply by 2: shift left one bit, and XOR 0x1b if bit 7 was set (spec/44_mixcolumns.md R64). -/
def xtime (a : Byte) : Byte :=
  let t := a <<< 1
  if a.getLsbD 7 then t ^^^ 0x1b#8 else t

/-- Multiply by 1 (spec/44_mixcolumns.md R65). -/
def mul1 (a : Byte) : Byte := a

/-- Multiply by 2 (spec/44_mixcolumns.md R65). -/
def mul2 (a : Byte) : Byte := xtime a

/-- Multiply by 3 (spec/44_mixcolumns.md R65). -/
def mul3 (a : Byte) : Byte := xtime a ^^^ a

/-- Multiply by 9 = 8+1 (spec/44_mixcolumns.md R66). -/
def mul9 (a : Byte) : Byte := xtime (xtime (xtime a)) ^^^ a

/-- Multiply by 11 = 8+2+1 (spec/44_mixcolumns.md R66). -/
def mul11 (a : Byte) : Byte := xtime (xtime (xtime a)) ^^^ xtime a ^^^ a

/-- Multiply by 13 = 8+4+1 (spec/44_mixcolumns.md R66). -/
def mul13 (a : Byte) : Byte := xtime (xtime (xtime a)) ^^^ xtime (xtime a) ^^^ a

/-- Multiply by 14 = 8+4+2 (spec/44_mixcolumns.md R66). -/
def mul14 (a : Byte) : Byte := xtime (xtime (xtime a)) ^^^ xtime (xtime a) ^^^ xtime a

/-- MixColumn, the circulant matrix with first row [2, 3, 1, 1], each row shifted one place to the right
(spec/44_mixcolumns.md R67, 90_conflicts.md C2). -/
def mixColumn (a : Word) : Word :=
  #v[mul2 a[0] ^^^ mul3 a[1] ^^^ mul1 a[2] ^^^ mul1 a[3],
     mul1 a[0] ^^^ mul2 a[1] ^^^ mul3 a[2] ^^^ mul1 a[3],
     mul1 a[0] ^^^ mul1 a[1] ^^^ mul2 a[2] ^^^ mul3 a[3],
     mul3 a[0] ^^^ mul1 a[1] ^^^ mul1 a[2] ^^^ mul2 a[3]]

/-- InvMixColumn, the circulant matrix with first row [14, 11, 13, 9] (spec/44_mixcolumns.md R68). -/
def invMixColumn (a : Word) : Word :=
  #v[mul14 a[0] ^^^ mul11 a[1] ^^^ mul13 a[2] ^^^ mul9 a[3],
     mul9 a[0] ^^^ mul14 a[1] ^^^ mul11 a[2] ^^^ mul13 a[3],
     mul13 a[0] ^^^ mul9 a[1] ^^^ mul14 a[2] ^^^ mul11 a[3],
     mul11 a[0] ^^^ mul13 a[1] ^^^ mul9 a[2] ^^^ mul14 a[3]]

/-- MixColumns, "applied independently to each of the 4 columns" (spec/44_mixcolumns.md R69). -/
def mixColumns (b : Block) : Block := blockOfColumns (Vector.ofFn fun c => mixColumn (column b c))

/-- InvMixColumns of any 16-byte value in the block layout: BLK, or a round key (spec/44_mixcolumns.md R69). -/
def invMixColumns (x : Block) : Block := blockOfColumns (Vector.ofFn fun c => invMixColumn (column x c))

/-- The product of two bytes in GF(2^8) modulo 0x11b, by repeated doubling: bit n of `b` contributes `a` doubled n
times. Not part of the core's datapath: it says what the fixed multipliers multiply by, and serves R58's check (log 17). -/
def gfMul (a b : Byte) : Byte :=
  go 8 a b
where
  /-- `n` bits of `b` left to take, `a` already doubled for them. -/
  go : Nat → Byte → Byte → Byte
  | 0, _, _ => 0
  | n + 1, a, b => (if b.getLsbD 0 then a else 0) ^^^ go n (xtime a) (b >>> 1)

/-- The affine map A of the S-box definition (spec/42_subbytes.md R58). -/
def affineMap (b : Byte) : Byte :=
  b ^^^ b.rotateLeft 1 ^^^ b.rotateLeft 2 ^^^ b.rotateLeft 3 ^^^ b.rotateLeft 4 ^^^ 0x63#8

end Sys2Proof.Machine
end

