-- ==== Sys2Proof/Machine/ShiftRows.lean ====
section
/-! DEFINITION. RowShift (spec/43_shiftrows.md R62, R63). -/

namespace Sys2Proof.Machine

/-- ShiftRows: `BLK[4*c + r] <- s[4*((c + r) mod 4) + r]`, s the old BLK (spec/43_shiftrows.md R62). Addition in
`Fin 4` is addition mod 4. -/
def shiftRows (s : Block) : Block := Vector.ofFn fun n => stateByte s (rowOf n) (colOf n + rowOf n)

/-- InvShiftRows: `BLK[4*c + r] <- s[4*((c - r) mod 4) + r]`, s the old BLK (spec/43_shiftrows.md R63). Subtraction
in `Fin 4` is subtraction mod 4. -/
def invShiftRows (s : Block) : Block := Vector.ofFn fun n => stateByte s (rowOf n) (colOf n - rowOf n)

end Sys2Proof.Machine
end

