-- ==== Sys2Proof/Syntax.lean ====
section
/-! DEFINITION. The syntax: the commands of spec/opcode_table.json, and the HOST program lines of spec/30_encoding.md R48. -/

namespace Sys2Proof

/-- One constructor per row of spec/opcode_table.json. Each carries the key and din fields of the command word,
the illegal modes too: their words hold the fields, which the core does not use (spec/30_encoding.md R43, R44). -/
inductive Instr where
  /-- ENC, mode 0b00 (spec/46_orchestrator.md R73). -/
  | enc (key din : Port)
  /-- DEC, mode 0b01 (spec/46_orchestrator.md R74). -/
  | dec (key din : Port)
  /-- INVALID_MODE_2, mode 0b10 (spec/60_exceptions.md R84). -/
  | invalidMode2 (key din : Port)
  /-- INVALID_MODE_3, mode 0b11 (spec/60_exceptions.md R84). -/
  | invalidMode3 (key din : Port)
  deriving DecidableEq, Repr

/-- The key field of a command. -/
def Instr.key : Instr → Port
  | .enc key _ => key
  | .dec key _ => key
  | .invalidMode2 key _ => key
  | .invalidMode3 key _ => key

/-- The din field of a command. -/
def Instr.din : Instr → Port
  | .enc _ din => din
  | .dec _ din => din
  | .invalidMode2 _ din => din
  | .invalidMode3 _ din => din

/-- One line of a HOST program (spec/30_encoding.md R48). A hex operand is the list of its digits as written,
each a number, the first digit first (log 19). -/
inductive HostLine where
  /-- `CMD mode=0bMM, key=<32 hex>, din=<32 hex>`: present a command with any mode. -/
  | cmd (mode : Mode) (key din : List Nat)
  /-- `ENC key=..., din=...`: pseudo-instruction, CMD with mode=0b00. -/
  | enc (key din : List Nat)
  /-- `DEC key=..., din=...`: pseudo-instruction, CMD with mode=0b01. -/
  | dec (key din : List Nat)
  /-- `NOP`: one step with no command. -/
  | nop
  /-- `WAIT`: NOP repeated until busy = 0. -/
  | wait
  /-- `READ`: observe dout, busy, done, err. -/
  | read
  /-- `STATUS`: observe busy, done, err only. -/
  | status
  /-- `RESET`: one step with rst = 1. -/
  | reset
  deriving DecidableEq, Repr

end Sys2Proof
end

