-- ==== Sys2Proof/WellFormed.lean ====
section
/-! DEFINITION. Which syntax is well formed: every command is (its fields have fixed widths); a HOST program line is when its hex operands are 32 hex digits. -/

namespace Sys2Proof

/-- Every command is well formed: "Every value of key and din is legal" (spec/30_encoding.md R46), and the field
widths are in the types, so a wrong buffer length cannot be written (spec/20_memory.md R38, 60_exceptions.md R85).
The illegal modes are commands too: they are accepted and raise InvalidMode (R46). -/
def Instr.wf : Instr → Bool
  | .enc _ _ => true
  | .dec _ _ => true
  | .invalidMode2 _ _ => true
  | .invalidMode3 _ _ => true

/-- A digit of a hex operand. -/
def isHexDigit (d : Nat) : Bool := d < 16

/-- A hex operand `<32 hex>` (spec/30_encoding.md R48): exactly 32 digits, each a hex digit. -/
def hexOperandWf (ds : List Nat) : Bool := ds.length == 32 && ds.all isHexDigit

/-- A HOST program line is well formed when its hex operands are (spec/30_encoding.md R48). -/
def HostLine.wf : HostLine → Bool
  | .cmd _ key din => hexOperandWf key && hexOperandWf din
  | .enc key din => hexOperandWf key && hexOperandWf din
  | .dec key din => hexOperandWf key && hexOperandWf din
  | .nop => true
  | .wait => true
  | .read => true
  | .status => true
  | .reset => true

end Sys2Proof
end

