-- ==== Sys2Proof/Decode.lean ====
section
/-! DEFINITION. The command word (spec/30_encoding.md R43, R44): the decoder, total, refusing by name what is no command word, and the encoder. -/

namespace Sys2Proof

/-- Why a number or a listing is no command word. -/
inductive DecodeError where
  /-- A bit above bit 257 is set: the one format has 258 bits (spec/30_encoding.md R43, R47). -/
  | bitsAboveCommandWord
  /-- A listing that is not 65 digits long (spec/30_encoding.md R48). -/
  | listingLength
  /-- A listing with an entry that is no hex digit (spec/30_encoding.md R48). -/
  | notAHexDigit
  deriving DecidableEq, Repr

/-- The mode field of a command word, bits [257:256] (spec/30_encoding.md R43). -/
def commandMode (w : Nat) : Mode := BitVec.ofNat 2 (w / 2 ^ 256)

/-- The key field of a command word, bits [255:128] (spec/30_encoding.md R43). -/
def commandKey (w : Nat) : Port := BitVec.ofNat 128 (w / 2 ^ 128)

/-- The din field of a command word, bits [127:0] (spec/30_encoding.md R43). -/
def commandDin (w : Nat) : Port := BitVec.ofNat 128 w

/-- Mode decoding (spec/30_encoding.md R44): "every command is the one 258-bit format of rule R43, decoded by its
mode field alone" (R47). -/
def decodeFields (mode : Mode) (key din : Port) : Instr :=
  if mode = Config.modeEnc then .enc key din
  else if mode = Config.modeDec then .dec key din
  else if mode = 0b10#2 then .invalidMode2 key din
  else .invalidMode3 key din

/-- The decoder on any number: a command word, bit 0 its least significant bit, or a rejection by name of a number with
a bit above bit 257 set (log 13). -/
def decode (w : Nat) : Except DecodeError Instr :=
  if w / 2 ^ 256 < 4 then .ok (decodeFields (commandMode w) (commandKey w) (commandDin w))
  else .error .bitsAboveCommandWord

/-- The number a list of hex digits writes, first digit first (spec/30_encoding.md R48: "byte 0 first"). -/
def hexValue (ds : List Nat) : Nat := ds.foldl (fun a d => 16 * a + d) 0

/-- The decoder on a listing of a command word, "65 hex digits: one digit holding mode[1:0] as 0..3, then 32 digits
of key, then 32 digits of din" (spec/30_encoding.md R48). -/
def decodeListing (ds : List Nat) : Except DecodeError Instr :=
  if ds.length ≠ 65 then .error .listingLength
  else if ds.all isHexDigit then decode (hexValue ds) else .error .notAHexDigit

/-- The mode code of a command (spec/30_encoding.md R44). -/
def Instr.mode : Instr → Mode
  | .enc _ _ => Config.modeEnc
  | .dec _ _ => Config.modeDec
  | .invalidMode2 _ _ => 0b10#2
  | .invalidMode3 _ _ => 0b11#2

/-- The command word of mode, key and din: mode [257:256], key [255:128], din [127:0] (spec/30_encoding.md R43). -/
def commandOf (mode : Mode) (key din : Port) : Command := mode ++ key ++ din

/-- The encoder: the command word of a command (spec/30_encoding.md R43, R44). -/
def encode (i : Instr) : Command := commandOf i.mode i.key i.din

/-- The listing of a command word, 65 hex digits, most significant first (spec/30_encoding.md R48). -/
def listing (w : Command) : List Nat := (List.range 65).map fun n => w.toNat / 2 ^ (4 * (64 - n)) % 16

/-- The low `nbits` bits of a number (written so that no power above 2^256 is computed for a row of the table). -/
def lowBits (nbits w : Nat) : Nat :=
  if nbits ≤ 256 then w % 2 ^ nbits else w % 2 ^ 256 + w / 2 ^ 256 % 2 ^ (nbits - 256) * 2 ^ 256

/-- The instruction the decoder reads from a table row's bits, all bits at and above `nbits` taken as 0. The command
word is the hardware's only word, so the table's numbering is R43's own. -/
def decodeTableWord (nbits w : Nat) : Option Instr :=
  match decode (lowBits nbits w) with
  | .ok i => some i
  | .error _ => none

end Sys2Proof
end

