-- ==== Sys2Proof/Machine/State.lean ====
section
/-! DEFINITION. State: the registers of spec/10_state.md R9, and the two fields that stand for the HOST; the reasons a step stops; the state after reset. -/

namespace Sys2Proof.Machine

/-- PHASE, the orchestrator phase (spec/10_state.md R13). -/
inductive Phase where
  /-- No operation in progress; a command may be accepted. -/
  | idle
  /-- An operation is in progress; K says which round step comes next. -/
  | busy
  /-- An InvalidMode fault was taken; only reset leaves this phase. -/
  | fault
  deriving DecidableEq, Repr

/-- DIR, the direction bit (spec/10_state.md R12): 0 = forward (ENC), 1 = inverse (DEC). -/
inductive Direction where
  | forward
  | inverse
  deriving DecidableEq, Repr

/-- The values on the input ports in one step (spec/10_state.md R20); clk is abstracted (92_eei_decisions.md D1). -/
structure InPorts where
  rst : Bool
  start : Bool
  mode : Mode
  key : Port
  din : Port
  deriving DecidableEq, Repr

/-- What a HOST read step has seen (spec/46_orchestrator.md R82). -/
inductive Observation where
  /-- A Read: dout, busy, done, err. -/
  | read (dout : Port) (busy done err : Bool)
  /-- A Read while DOUT holds no value: the ReadUnwritten fault of the read, recorded (spec/10_state.md R22,
  93_implementation_defined.md U5; log 15). No dout is seen; busy, done, err are. -/
  | readUnwritten (busy done err : Bool)
  /-- Its flags-only form Status: busy, done, err. -/
  | status (busy done err : Bool)
  deriving DecidableEq, Repr

/-- One turn of the agenda: who moves next and what it does (spec/46_orchestrator.md R82; log 2). -/
inductive Turn where
  /-- The CORE's turn. -/
  | core
  /-- A HOST step that drives the input ports: Start, Reset or Nop, as rst and start say. -/
  | drive (ports : InPorts)
  /-- The HOST waits until busy = 0 (spec/30_encoding.md R48 `WAIT`; log 3). -/
  | wait
  /-- The HOST's Read step. -/
  | read
  /-- The HOST's Status step. -/
  | status
  deriving DecidableEq, Repr

/-- The state of one CORE instance (log 16), exactly the fields of spec/10_state.md R9 (the ROMs are constants of
Machine/Tables.lean, as R9 allows), and after them the two fields of the HOST. A register that may hold no value
(R22, R23) is an Option, `none` being the spec's "no value" (log 1). -/
structure State where
  /-- BLK, the working block (spec/10_state.md R10). -/
  blk : Option Block
  /-- SCHED, the round-key schedule (spec/10_state.md R11). -/
  sched : Option Schedule
  /-- DIR, the direction of the current operation, one of two values (spec/10_state.md R12); `none` is no third value
  but "no value", which R22 and R23 state for DIR after reset (log 1). -/
  dir : Option Direction
  /-- PHASE (spec/10_state.md R13). -/
  phase : Phase
  /-- K, the round index, 4 bits (spec/10_state.md R14). -/
  k : BitVec 4
  /-- DOUT, the output register (spec/10_state.md R15). -/
  dout : Option Block
  /-- BUSY (spec/10_state.md R16). -/
  busy : Bool
  /-- DONE (spec/10_state.md R16). -/
  done : Bool
  /-- ERR (spec/10_state.md R16). -/
  err : Bool
  /-- The MODEL's own: the turns still to come, HOST steps and the CORE steps put between them (log 2). -/
  agenda : List Turn
  /-- The MODEL's own: what the HOST has read, newest first (log 5). -/
  observed : List Observation
  deriving DecidableEq, Repr

/-- Why a step stops. No command of the opcode table and no HOST step raises it. -/
inductive Fault where
  /-- K is 11..15 with PHASE = BUSY: no rule gives a round step there, and "values 11..15 of its 4 bits never occur"
  (spec/10_state.md R14). Raised by the CORE step in such a state, which no run reaches. Safe (log 12). -/
  | noRoundStep
  deriving DecidableEq, Repr

/-- Why a step has no meaning. No arm and no meaning of this model answers with it. -/
inductive Refusal where
  /-- The instruction has no meaning yet. Raised by a refused arm of exec alone (there is none). Safe. -/
  | notModelled (mnemonic : String)
  deriving DecidableEq, Repr

/-- The state after a Reset step (spec/10_state.md R23, 70_reset_and_hazards.md R92). A run starts here,
not before the first reset (log 18). The HOST has no turn pending and has seen nothing: the two model fields' values
are DESIGN CHOICE (log 2, log 5). -/
def State.reset : State where
  blk := none
  sched := none
  dir := none
  phase := .idle
  k := 0
  dout := none
  busy := false
  done := false
  err := false
  agenda := []
  observed := []

end Sys2Proof.Machine
end

