-- ==== Sys2Proof/Machine/SubBytes.lean ====
section
/-! DEFINITION. ByteSubstitution (spec/42_subbytes.md R59, R60). -/

namespace Sys2Proof.Machine

/-- SubBytes: `for i in 0..15: BLK[i] <- SBOX[BLK[i]]` (spec/42_subbytes.md R59). -/
def subBytes (b : Block) : Block := Vector.ofFn fun i => sbox b[i]

/-- InvSubBytes: `for i in 0..15: BLK[i] <- INV_SBOX[BLK[i]]` (spec/42_subbytes.md R60). -/
def invSubBytes (b : Block) : Block := Vector.ofFn fun i => invSbox b[i]

end Sys2Proof.Machine
end

