-- ==== Sys2Proof/Machine/Cipher.lean ====
section
/-! DEFINITION. What a round step does to BLK (spec/46_orchestrator.md R75 to R80), and Encrypt and Decrypt as functions of their operands (R73, R74). -/

namespace Sys2Proof.Machine

/-- BLK after ENC round step K = 0: the initial AddRoundKey (spec/46_orchestrator.md R75). -/
def encInitialRound (sc : Schedule) (b : Block) : Block := addRoundKey b (roundKey sc 0)

/-- BLK after ENC round step K = 1..9, round K (spec/46_orchestrator.md R76). -/
def encFullRound (sc : Schedule) (r : Round) (b : Block) : Block :=
  addRoundKey (mixColumns (shiftRows (subBytes b))) (roundKey sc r)

/-- BLK after ENC round step K = 10, no MixColumns (spec/46_orchestrator.md R77). -/
def encFinalRound (sc : Schedule) (b : Block) : Block :=
  addRoundKey (shiftRows (subBytes b)) (roundKey sc 10)

/-- BLK after DEC round step K = 0: the initial AddRoundKey with rk(10) (spec/46_orchestrator.md R78). -/
def decInitialRound (sc : Schedule) (b : Block) : Block := addRoundKey b (roundKey sc 10)

/-- BLK after DEC round step K = 1..9, inverse round r = 10 - K: "the round key is passed through InvMixColumns first"
(spec/46_orchestrator.md R79, 90_conflicts.md C1). -/
def decFullRound (sc : Schedule) (r : Round) (b : Block) : Block :=
  addRoundKey (invMixColumns (invShiftRows (invSubBytes b))) (invMixColumns (roundKey sc r))

/-- BLK after DEC round step K = 10, no InvMixColumns (spec/46_orchestrator.md R80). -/
def decFinalRound (sc : Schedule) (b : Block) : Block :=
  addRoundKey (invShiftRows (invSubBytes b)) (roundKey sc 0)

/-- BLK after the round step K = r in direction d: the rule of R75 to R80 that DIR and K select
(spec/46_orchestrator.md R82). -/
def roundBlock (d : Direction) (sc : Schedule) (r : Round) (b : Block) : Block :=
  match d with
  | .forward =>
    if r = 0 then encInitialRound sc b else if r = 10 then encFinalRound sc b else encFullRound sc r b
  | .inverse =>
    if r = 0 then decInitialRound sc b else if r = 10 then decFinalRound sc b
    else decFullRound sc ⟨10 - r.val, by omega⟩ b

/-- Encrypt (spec/46_orchestrator.md R73). -/
def encrypt (key pt : Block) : Block :=
  let sch := keyExpansion key
  let s := addRoundKey pt (roundKey sch 0)
  let s := ([1, 2, 3, 4, 5, 6, 7, 8, 9] : List Round).foldl
    (fun s r => addRoundKey (mixColumns (shiftRows (subBytes s))) (roundKey sch r)) s
  addRoundKey (shiftRows (subBytes s)) (roundKey sch 10)

/-- Decrypt (spec/46_orchestrator.md R74). -/
def decrypt (key ct : Block) : Block :=
  let sch := keyExpansion key
  let s := addRoundKey ct (roundKey sch 10)
  let s := ([9, 8, 7, 6, 5, 4, 3, 2, 1] : List Round).foldl
    (fun s r => addRoundKey (invMixColumns (invShiftRows (invSubBytes s))) (invMixColumns (roundKey sch r))) s
  addRoundKey (invShiftRows (invSubBytes s)) (roundKey sch 0)

/-- The result of a command in direction d on port values (spec/46_orchestrator.md R73, R74). -/
def cipherResult (d : Direction) (key din : Port) : Block :=
  match d with
  | .forward => encrypt (blockOfPort key) (blockOfPort din)
  | .inverse => decrypt (blockOfPort key) (blockOfPort din)

end Sys2Proof.Machine
end

