-- ==== Sys2Proof/Machine/Flags.lean ====
section
/-! DEFINITION. The status flags (spec/10_state.md R16, R17): who sets and clears them, and the status vector. "the transforms of 41 to 45 have no flags" (R16). -/

namespace Sys2Proof.Machine

/-- `DONE <- 0`, the first statement of the accept step, for a valid and an invalid mode alike (spec/46_orchestrator.md R72). -/
def State.clearDone (s : State) : State := { s with done := false }

/-- The flags of completion: `DONE <- 1 ; BUSY <- 0` (spec/46_orchestrator.md R77, R80). -/
def State.completionFlags (s : State) : State := { s with done := true, busy := false }

/-- `status[2:0]`: bit 0 is BUSY, bit 1 is DONE, bit 2 is ERR (spec/10_state.md R17). -/
def State.statusVector (s : State) : BitVec 3 :=
  BitVec.ofBool s.err ++ BitVec.ofBool s.done ++ BitVec.ofBool s.busy

end Sys2Proof.Machine
end

