-- ==== Sys2Proof/Machine/Ops.lean ====
section
/-! DEFINITION. The shared operations on State: accepting a command, taking InvalidMode and returning from it by reset, the parts of a round step, the output ports. The core has no memory (spec/20_memory.md R36), so there is no operation over one. -/

namespace Sys2Proof.Machine

/-- The accept step of a valid mode after `DONE <- 0`: DIR, BLK, SCHED, K, PHASE, BUSY are written
(spec/46_orchestrator.md R72). -/
def State.accept (d : Direction) (key din : Port) (s : State) : State :=
  { s with
    dir := some d
    blk := some (blockOfPort din)
    sched := some (keyExpansion (blockOfPort key))
    k := 0
    phase := .busy
    busy := true }

/-- Taking the one exception, `raise InvalidMode()`: `ERR <- 1`, `PHASE <- FAULT`, and nothing else is written
(spec/60_exceptions.md R84, R87; log 6). -/
def State.raiseInvalidMode (s : State) : State := { s with err := true, phase := .fault }

/-- The Reset step, which is also the only return from the fault (spec/60_exceptions.md R86): every piece of the
core's state takes its reset value, in every phase (spec/70_reset_and_hazards.md R92). The HOST's agenda and what it
has read are not the core's state and stay. -/
def State.resetStep (s : State) : State := { State.reset with agenda := s.agenda, observed := s.observed }

/-- A command presented in one step (spec/46_orchestrator.md R72, R81): accepted in PHASE = IDLE, where DONE is
cleared before anything else; ignored in PHASE = BUSY and PHASE = FAULT, where it writes nothing. -/
def presentCommand (effect : State → State) (s : State) : Host.Outcome State Fault Refusal :=
  match s.phase with
  | .idle => .next (effect s.clearDone)
  | .busy => .next s
  | .fault => .next s

/-- A round step with K < 10: BLK takes the round's result and `K <- K + 1` (spec/46_orchestrator.md R75, R76, R78, R79). -/
def State.advance (b : Block) (s : State) : State := { s with blk := some b, k := s.k + 1 }

/-- The round step K = 10: BLK and DOUT take the result, `DONE <- 1 ; BUSY <- 0 ; PHASE <- IDLE ; K <- 0`
(spec/46_orchestrator.md R77, R80). -/
def State.complete (b : Block) (s : State) : State :=
  { s.completionFlags with blk := some b, dout := some b, phase := .idle, k := 0 }

/-- DIR as a CORE step reads it. The core "never reads BLK, SCHED or DIR before writing them" (spec/10_state.md R22); in a
state, which no run reaches, where one holds no value in PHASE = BUSY, the step still runs, on a free value (log 12). -/
def State.readDir (s : State) : Direction :=
  s.dir.getD (if Config.unwrittenDir s.k then .inverse else .forward)

/-- BLK as a CORE step reads it (spec/10_state.md R10, R22; log 12). -/
def State.readBlk (s : State) : Block := s.blk.getD (Config.unwrittenBlk s.k)

/-- SCHED as a CORE step reads it (spec/10_state.md R11, R22; log 12). -/
def State.readSched (s : State) : Schedule := s.sched.getD (Config.unwrittenSched s.k)

/-- Add to what the HOST has read (log 5). -/
def State.observe (o : Observation) (s : State) : State := { s with observed := o :: s.observed }

/-- The state with another agenda. -/
def State.withAgenda (ts : List Turn) (s : State) : State := { s with agenda := ts }

/-- The values on the output ports (spec/10_state.md R21); dout is `none` while DOUT holds no value (R22). -/
structure OutPorts where
  dout : Option Port
  busy : Bool
  done : Bool
  err : Bool
  deriving DecidableEq, Repr

/-- The outputs "are pure functions of the state" (spec/10_state.md R21). -/
def State.outPorts (s : State) : OutPorts where
  dout := s.dout.map portOfBlock
  busy := s.busy
  done := s.done
  err := s.err

end Sys2Proof.Machine
end

