-- ==== Sys2Proof/Machine/Commands.lean ====
section
/-! DEFINITION. The meanings of the four commands of spec/opcode_table.json: each is the HOST's Start step with that command (spec/46_orchestrator.md R72, R73, R74, R81, 60_exceptions.md R84). -/

namespace Sys2Proof.Machine

/-- ENC: the accept step with `DIR <- 0` (spec/46_orchestrator.md R72, R73); the CORE's steps R75 to R77 follow. -/
def execEnc (key din : Port) (s : State) : Host.Outcome State Fault Refusal :=
  presentCommand (State.accept .forward key din) s

/-- DEC: the accept step with `DIR <- 1` (spec/46_orchestrator.md R72, R74); the CORE's steps R78 to R80 follow. -/
def execDec (key din : Port) (s : State) : Host.Outcome State Fault Refusal :=
  presentCommand (State.accept .inverse key din) s

/-- Mode 0b10: InvalidMode is raised; key and din are not used (spec/60_exceptions.md R84). -/
def execInvalidMode2 (_key _din : Port) (s : State) : Host.Outcome State Fault Refusal :=
  presentCommand State.raiseInvalidMode s

/-- Mode 0b11: InvalidMode is raised; key and din are not used (spec/60_exceptions.md R84). -/
def execInvalidMode3 (_key _din : Port) (s : State) : Host.Outcome State Fault Refusal :=
  presentCommand State.raiseInvalidMode s

end Sys2Proof.Machine
end

