-- ==== Sys2Proof/Machine/Dispatch.lean ====
section
/-! DEFINITION. exec: one arm per command, each one call of its meaning. -/

namespace Sys2Proof.Machine

def exec (i : Instr) (s : State) : Host.Outcome State Fault Refusal :=
  match i with
  | .enc key din => Sys2Proof.Machine.execEnc key din s
  | .dec key din => Sys2Proof.Machine.execDec key din s
  | .invalidMode2 key din => Sys2Proof.Machine.execInvalidMode2 key din s
  | .invalidMode3 key din => Sys2Proof.Machine.execInvalidMode3 key din s

end Sys2Proof.Machine
end

