-- ==== Sys2Proof/Machine/Rounds.lean ====
section
/-! DEFINITION. The CORE's step (spec/46_orchestrator.md R75 to R80, R82). -/

namespace Sys2Proof.Machine

/-- The round step K = r of the operation in direction d: the block of the rule that DIR and K select, then either
`K <- K + 1` or, at K = 10, the completion (spec/46_orchestrator.md R75 to R80). -/
def roundStep (d : Direction) (sc : Schedule) (r : Round) (b : Block) (s : State) : State :=
  if r = 10 then s.complete (roundBlock d sc r b) else s.advance (roundBlock d sc r b)

/-- The CORE's step, "enabled exactly when PHASE = BUSY" (spec/46_orchestrator.md R82). In PHASE = IDLE and
PHASE = FAULT the CORE has no step and nothing changes (log 4). -/
def coreStep (s : State) : Host.Outcome State Fault Refusal :=
  match s.phase with
  | .busy =>
    if h : s.k.toNat < 11 then .next (roundStep s.readDir s.readSched ⟨s.k.toNat, h⟩ s.readBlk s)
    else .fault .noRoundStep
  | .idle => .next s
  | .fault => .next s

end Sys2Proof.Machine
end

