-- ==== Sys2Proof/Machine/Turns.lean ====
section
/-! DEFINITION. The HOST's steps and the turn-taking of HOST and CORE (spec/46_orchestrator.md R82, R83). -/

namespace Sys2Proof.Machine

/-- The command word on the ports in one step (spec/30_encoding.md R43). -/
def InPorts.commandWord (p : InPorts) : Command := commandOf p.mode p.key p.din

/-- The ports of a step that presents a command: "one step with start = 1, the given mode, key, din"
(spec/30_encoding.md R48, R43). -/
def startPorts (mode : Mode) (key din : Port) : InPorts where
  rst := false
  start := true
  mode := mode
  key := key
  din := din

/-- The ports of a step that presents a command word (spec/30_encoding.md R43). -/
def InPorts.ofWord (w : Nat) : InPorts := startPorts (commandMode w) (commandKey w) (commandDin w)

/-- The ports of a Nop step: start = 0, rst = 0 (spec/30_encoding.md R48); the other ports' values mean nothing (R46). -/
def InPorts.nop : InPorts where
  rst := false
  start := false
  mode := 0
  key := 0
  din := 0

/-- The ports of a Reset step: rst = 1 (spec/30_encoding.md R48); the other ports' values mean nothing (70_reset_and_hazards.md R92, R93). -/
def InPorts.reset : InPorts := { InPorts.nop with rst := true }

/-- A HOST step that drives the input ports. Reset takes precedence over everything (spec/60_exceptions.md R88,
70_reset_and_hazards.md R93); otherwise start = 1 presents the command on the ports; otherwise no command is presented
(30_encoding.md R46) and nothing changes. -/
def drivePorts (p : InPorts) (s : State) : Host.Outcome State Fault Refusal :=
  if p.rst then .next s.resetStep
  else if p.start then exec (decodeFields p.mode p.key p.din) s
  else .next s

/-- The HOST's Read: dout, busy, done and err are seen, and no register is written (spec/46_orchestrator.md R82). While
DOUT holds no value it is "a fault of the read" (10_state.md R22, 70_reset_and_hazards.md R95), which "the model records"
(93_implementation_defined.md U5); the machine goes on (log 15). -/
def hostRead (s : State) : Host.Outcome State Fault Refusal :=
  match s.dout with
  | some b => .next (s.observe (.read (portOfBlock b) s.busy s.done s.err))
  | none => .next (s.observe (.readUnwritten s.busy s.done s.err))

/-- The HOST's Status: busy, done and err are seen; it "never faults" (spec/46_orchestrator.md R82, 30_encoding.md R48). -/
def hostStatus (s : State) : Host.Outcome State Fault Refusal :=
  .next (s.observe (.status s.busy s.done s.err))

/-- One step of the model (log 2, log 3). The first turn of the agenda is taken and leaves it. A `wait` turn stays
while busy = 1 and the CORE takes its steps; at busy = 0 it ends (spec/30_encoding.md R48). With no turn left the CORE
runs on until it is no longer BUSY (weak fairness, spec/46_orchestrator.md R82, R83), and then nothing changes. -/
def takeTurn (s : State) : Host.Outcome State Fault Refusal :=
  match s.agenda with
  | [] => coreStep s
  | .core :: rest => coreStep (s.withAgenda rest)
  | .drive p :: rest => drivePorts p (s.withAgenda rest)
  | .wait :: rest => if s.busy then coreStep s else .next (s.withAgenda rest)
  | .read :: rest => hostRead (s.withAgenda rest)
  | .status :: rest => hostStatus (s.withAgenda rest)

end Sys2Proof.Machine
end

