-- ==== Sys2Proof/Machine/Program.lean ====
section
/-! DEFINITION. HOST programs (spec/30_encoding.md R48): what each line expands to, and putting a program before the machine. -/

namespace Sys2Proof.Machine

/-- The port value of a hex operand, "written byte 0 first" (spec/30_encoding.md R48, 20_memory.md R30). -/
def operandOfDigits (ds : List Nat) : Port := BitVec.ofNat 128 (hexValue ds)

/-- The expansion of a program line (spec/30_encoding.md R48). -/
def lineTurn : HostLine → Turn
  | .cmd mode key din => .drive (startPorts mode (operandOfDigits key) (operandOfDigits din))
  | .enc key din => .drive (startPorts Config.modeEnc (operandOfDigits key) (operandOfDigits din))
  | .dec key din => .drive (startPorts Config.modeDec (operandOfDigits key) (operandOfDigits din))
  | .nop => .drive InPorts.nop
  | .wait => .wait
  | .read => .read
  | .status => .status
  | .reset => .drive InPorts.reset

/-- A HOST program put before the machine with a schedule: each line becomes the HOST's turn, and after it come as many
CORE steps as stand beside the line (R82; "3 CORE steps happen here", spec/95_test_vectors.md P3; log 14). A line that
is not well formed is no line of R48's syntax: the whole program is then not taken. -/
def State.withScheduledProgram (s : State) (lines : List (HostLine × Nat)) : Option State :=
  if lines.all fun l => l.1.wf then
    some (s.withAgenda (lines.flatMap fun l => lineTurn l.1 :: List.replicate l.2 .core))
  else none

/-- A HOST program put before the machine with no CORE step between its lines: the CORE moves in a `WAIT` and after the
last line only. R48 does not say when the CORE steps fall, and R82 lets them fall anywhere: this one schedule is the
model's choice (log 20, DESIGN CHOICE), and a claim over it speaks of no other. -/
def State.withProgram (s : State) (lines : List HostLine) : Option State :=
  s.withScheduledProgram (lines.map fun l => (l, 0))

end Sys2Proof.Machine
end

