-- ==== Sys2Proof/Machine/Step.lean ====
section
/-! DEFINITION. The step of the machine, and placing one command before it. -/

namespace Sys2Proof.Machine

/-- One step: the next turn of HOST or CORE (spec/46_orchestrator.md R82). -/
def step (s : State) : Host.Outcome State Fault Refusal := takeTurn s

/-- The state in which the HOST's next turn presents the command word whose low `nbits` bits are w's: the machine's
next instruction comes from the ports, not from a memory (spec/20_memory.md R36; log 14). -/
def State.withFetchWord (s : State) (nbits w : Nat) : State :=
  s.withAgenda (.drive (InPorts.ofWord (lowBits nbits w)) :: s.agenda)

end Sys2Proof.Machine
end

