-- ==== Sys2Proof/Safety.lean ====
section
/-! DEFINITION. What claims are stated in: the invariants of the machine's state, runs, safe and normal ends. -/

namespace Sys2Proof.Machine

/-- The relations between the control registers, the flags and the data registers (spec/10_state.md R13 to R17, R22). -/
structure State.Inv (s : State) : Prop where
  /-- "BUSY = 1 exactly when PHASE = BUSY" (R16). -/
  busy_iff : s.busy = true ↔ s.phase = .busy
  /-- "ERR = 1 when PHASE = FAULT" (R16). -/
  err_iff : s.err = true ↔ s.phase = .fault
  /-- "BUSY = 1 implies DONE = 0; ERR = 1 implies BUSY = 0 and DONE = 0" (R16). -/
  done_idle : s.done = true → s.phase = .idle
  /-- "values 11..15 of its 4 bits never occur" (R14). -/
  k_le : s.k.toNat ≤ 10
  /-- "In PHASE = IDLE or FAULT, K = 0" (R14). -/
  k_zero : s.phase ≠ .busy → s.k = 0
  /-- The core never reads DIR before writing it (R22): an operation has one. -/
  dir_written : s.phase = .busy → s.dir.isSome = true
  /-- The core never reads BLK before writing it (R22). -/
  blk_written : s.phase = .busy → s.blk.isSome = true
  /-- The core never reads SCHED before writing it (R22). -/
  sched_written : s.phase = .busy → s.sched.isSome = true
  /-- With DONE = 1 DOUT holds the result, which is still in BLK (R15, R16). -/
  done_result : s.done = true → s.dout.isSome = true ∧ s.dout = s.blk

/-- BLK at the entry of round step `n` of a command in direction d: the input block, then one round step after another
(spec/46_orchestrator.md R72, R75 to R80). -/
def blockAtRound (d : Direction) (sc : Schedule) (input : Block) : Nat → Block
  | 0 => input
  | n + 1 =>
    let b := blockAtRound d sc input n
    if h : n < 11 then roundBlock d sc ⟨n, h⟩ b else b

/-- The registers are where the command of direction d with this key and din, the one accepted last, has come to
(spec/10_state.md R10, R11, R15, R16). -/
structure State.OnCourse (d : Direction) (key din : Port) (s : State) : Prop where
  /-- During the operation DIR is d, SCHED is the expansion of the key, and BLK is din taken through the first K round
  steps. -/
  operation : s.phase = .busy → s.dir = some d ∧ s.sched = some (keyExpansion (blockOfPort key)) ∧
    s.blk = some (blockAtRound d (keyExpansion (blockOfPort key)) (blockOfPort din) s.k.toNat)
  /-- "DONE = 1 when DOUT holds the result of the most recently accepted command" (R16). -/
  result : s.done = true → s.dout = some (cipherResult d key din)

/-- The valid command that the next step accepts, as its direction, key and din (spec/46_orchestrator.md R72): the
HOST's turn with rst = 0 and start = 1 in PHASE = IDLE. -/
def State.acceptedCommand (s : State) : Option (Direction × Port × Port) :=
  match s.agenda, s.phase with
  | .drive p :: _, .idle =>
    if p.rst || !p.start then none
    else if p.mode = Config.modeEnc then some (.forward, p.key, p.din)
    else if p.mode = Config.modeDec then some (.inverse, p.key, p.din)
    else none
  | _, _ => none

/-- `n` steps from a state, stopping at the first fault or refusal. -/
def runSteps : Nat → State → Host.Outcome State Fault Refusal
  | 0, s => .next s
  | n + 1, s =>
    match step s with
    | .next t => runSteps n t
    | .fault f => .fault f
    | .refused r => .refused r

/-- The control part of a state: everything but the bytes of BLK, SCHED and DOUT and what the HOST has read. Whether
those registers hold a value belongs to it. -/
def State.control (s : State) :
    Phase × BitVec 4 × Option Direction × Bool × Bool × Bool × Bool × Bool × Bool :=
  (s.phase, s.k, s.dir, s.busy, s.done, s.err, s.blk.isSome, s.sched.isSome, s.dout.isSome)

/-- The mode code of the command whose direction is d (spec/30_encoding.md R44, 10_state.md R12). -/
def Direction.modeCode : Direction → Mode
  | .forward => 0b00#2
  | .inverse => 0b01#2

/-- A turn with the key and din it carries left out. -/
def Turn.withoutData : Turn → Turn
  | .core => .core
  | .drive p => .drive { p with key := 0, din := 0 }
  | .wait => .wait
  | .read => .read
  | .status => .status

/-- A turn that cannot end an operation in progress: any but a Reset step and a `wait` (which is no single step). -/
def Turn.keepsOperation : Turn → Bool
  | .core => true
  | .drive p => !p.rst
  | .wait => false
  | .read => true
  | .status => true

/-- A run of a HOST program has ended: no turn is left and no operation is in progress (spec/46_orchestrator.md R83). -/
def State.ended (s : State) : Bool := s.agenda.isEmpty && s.phase != .busy

/-- A recorded fault of a read (spec/10_state.md R22). -/
def Observation.isFault : Observation → Bool
  | .read _ _ _ _ => false
  | .readUnwritten _ _ _ => true
  | .status _ _ _ => false

/-- A safe state: no InvalidMode fault since reset, and no fault of a read recorded. "A run that ends with ERR = 1 has
faulted; a model must treat it as a fault and never as a normal end" (spec/46_orchestrator.md R83; log 6, log 15). -/
def State.safe (s : State) : Bool := !s.err && !s.observed.any Observation.isFault

/-- A normal end of a run (spec/46_orchestrator.md R83). -/
def State.normalEnd (s : State) : Bool := s.ended && s.safe

end Sys2Proof.Machine
end

