-- ==== Sys2Proof/Certificates/Slice0/Obligations.lean ====
section
/-! DEFINITION. The statements for the provers, in the order of OBLIGATIONS.json. Each docstring names the rule of spec/ it formalises. -/

section

open Sys2Proof Sys2Proof.Machine

/-! ### Encoding (spec/30_encoding.md) -/

/-- R43, R44: decoding an encoded well-formed command gives it back, every mode, key and din. -/
def Obligations.DecodeOfEncodeIsTheCommand : Prop :=
  ∀ i : Instr, i.wf = true → decode (encode i).toNat = .ok i

/-- R47: every number with no bit above bit 257 is one command's word. That every other number is refused, by name, is
the model's choice (log 13): the rule speaks of no such number. -/
def Obligations.EveryCommandWordHasOneMeaning : Prop :=
  (∀ w : Nat, w < 2 ^ 258 → ∃ i : Instr, decode w = .ok i ∧ (encode i).toNat = w) ∧
    ∀ w : Nat, 2 ^ 258 ≤ w → decode w = .error .bitsAboveCommandWord

/-- R43 and R44, bit by bit: where the decoder takes each field from, and what each mode value selects. -/
def Obligations.DecoderReadsModeKeyAndDinByPosition : Prop :=
  ∀ w : Nat, w < 2 ^ 258 → ∃ i : Instr, decode w = .ok i ∧
    (∀ j, j < 128 → i.key.getLsbD j = w.testBit (128 + j)) ∧
    (∀ j, j < 128 → i.din.getLsbD j = w.testBit j) ∧
    (w.testBit 257 = false → w.testBit 256 = false → i = .enc i.key i.din) ∧
    (w.testBit 257 = false → w.testBit 256 = true → i = .dec i.key i.din) ∧
    (w.testBit 257 = true → w.testBit 256 = false → i = .invalidMode2 i.key i.din) ∧
    (w.testBit 257 = true → w.testBit 256 = true → i = .invalidMode3 i.key i.din)

/-- R48: the 65-digit listing of a command's word: its first digit is mode[1:0] as 0..3, and decoding it gives the command. -/
def Obligations.ListingOfACommandDecodesToIt : Prop :=
  ∀ i : Instr, (listing (encode i)).length = 65 ∧ (listing (encode i)).head? = some i.mode.toNat ∧
    decodeListing (listing (encode i)) = .ok i

/-- Words written out in spec/95_test_vectors.md section 4, "Program encodings in one place", decode to their commands. -/
def Obligations.ProgramWordsOfTheSpecDecode : Prop :=
  decode 0x0000102030405060708090a0b0c0d0e0f00112233445566778899aabbccddeeff =
      .ok (.enc 0x000102030405060708090a0b0c0d0e0f 0x00112233445566778899aabbccddeeff) ∧
    decode 0x1000102030405060708090a0b0c0d0e0f69c4e0d86a7b0430d8cdb78070b4c55a =
      .ok (.dec 0x000102030405060708090a0b0c0d0e0f 0x69c4e0d86a7b0430d8cdb78070b4c55a) ∧
    decode 0x2000102030405060708090a0b0c0d0e0f00112233445566778899aabbccddeeff =
      .ok (.invalidMode2 0x000102030405060708090a0b0c0d0e0f 0x00112233445566778899aabbccddeeff) ∧
    decode 0x3000102030405060708090a0b0c0d0e0f00112233445566778899aabbccddeeff =
      .ok (.invalidMode3 0x000102030405060708090a0b0c0d0e0f 0x00112233445566778899aabbccddeeff)

/-! ### Byte order and layout (spec/20_memory.md) -/

/-- R30: byte n of a 16-byte value is bits [127-8n : 120-8n] of the port value, in both directions, and nothing is lost. -/
def Obligations.PortByteOrderIsBigEndianBothWays : Prop :=
  (∀ (p : Port) (n : Nat) (hn : n < 16) (j : Nat), j < 8 →
      (blockOfPort p)[n].getLsbD j = p.getLsbD (120 - 8 * n + j)) ∧
    (∀ (b : Block) (n : Nat) (hn : n < 16) (j : Nat), j < 8 →
      (portOfBlock b).getLsbD (120 - 8 * n + j) = b[n].getLsbD j) ∧
    (∀ p : Port, portOfBlock (blockOfPort p) = p) ∧
    ∀ b : Block, blockOfPort (portOfBlock b) = b

/-- R48: byte n of a 32-digit hex operand is written by its digits 2n and 2n+1 ("Hex operands are written byte 0 first"). -/
def Obligations.HexOperandListsByteZeroFirst : Prop :=
  ∀ (ds : List Nat), hexOperandWf ds = true → ∀ (n : Nat) (hn : n < 16),
    (blockOfPort (operandOfDigits ds))[n].toNat = 16 * ds.getD (2 * n) 0 + ds.getD (2 * n + 1) 0

/-! ### Key schedule (spec/41_keyschedule.md) -/

/-- R53, word by word, with R50, R51, R52 written out: `w[0..3]` are the key's words; for i in 4..43
`w[i] = w[i-4] XOR temp`. RCON[1] is 0x01, and each entry up to RCON[10] is xtime of the one
before: that clause is R49's, and its entries 4 to 9 are the spec's own inference there. -/
def Obligations.KeyExpansionSatisfiesTheRecurrence : Prop :=
  ∀ key : Block,
    (∀ (i j : Nat) (hi : i < 4) (hj : j < 4),
      (scheduleWord (keyExpansion key) ⟨i, by omega⟩)[j] = key[4 * i + j]'(by omega)) ∧
    (∀ (i j : Nat) (h4 : 4 ≤ i) (hi : i < 44) (hj : j < 4), i % 4 ≠ 0 →
      (scheduleWord (keyExpansion key) ⟨i, hi⟩)[j] =
        (scheduleWord (keyExpansion key) ⟨i - 4, by omega⟩)[j] ^^^
          (scheduleWord (keyExpansion key) ⟨i - 1, by omega⟩)[j]) ∧
    (∀ (i j : Nat) (h4 : 4 ≤ i) (hi : i < 44) (hj : j < 4), i % 4 = 0 →
      (scheduleWord (keyExpansion key) ⟨i, hi⟩)[j] =
        (scheduleWord (keyExpansion key) ⟨i - 4, by omega⟩)[j] ^^^
          (sbox ((scheduleWord (keyExpansion key) ⟨i - 1, by omega⟩)[(j + 1) % 4]'(by omega)) ^^^
            if j = 0 then rcon ⟨i / 4, by omega⟩ else 0)) ∧
    rcon 1 = 0x01#8 ∧ ∀ (n : Nat) (h1 : 1 ≤ n) (hn : n < 10), rcon ⟨n + 1, by omega⟩ = xtime (rcon ⟨n, by omega⟩)

/-- R34, R54: round key r is the words w[4r] .. w[4r+3], and round key 0 is the key itself. -/
def Obligations.RoundKeyIsFourScheduleWords : Prop :=
  (∀ (sc : Schedule) (r : Round) (c : Fin 4),
      column (roundKey sc r) c = scheduleWord sc ⟨4 * r.val + c.val, by omega⟩) ∧
    ∀ key : Block, roundKey (keyExpansion key) 0 = key

/-- R55: "ENC and DEC compute the same schedule from the same key": SCHED after an accepted ENC or DEC depends on the
key alone, not on the direction, the input block or the state before. -/
def Obligations.ScheduleDependsOnTheKeyAlone : Prop :=
  ∀ (key din din' : Port) (s s' : State), s.phase = .idle → s'.phase = .idle →
    ∃ t t' u : State, exec (.enc key din) s = .next t ∧ exec (.dec key din') s' = .next t' ∧
      exec (.enc key din') s' = .next u ∧ t.sched = t'.sched ∧ t.sched = u.sched

/-! ### Substitution (spec/42_subbytes.md) -/

/-- R58: each entry of SBOX is the affine map of the inverse in GF(2^8) modulo 0x11b (0 for 0), and INV_SBOX is the
inverse permutation. -/
def Obligations.SboxEntriesAreAffineOfFieldInverse : Prop :=
  sbox 0 = affineMap 0 ∧
    (∀ v : Byte, v ≠ 0 → ∃ w : Byte, gfMul v w = 1 ∧ sbox v = affineMap w) ∧
    ∀ v w : Byte, invSbox v = w ↔ sbox w = v

/-- R60, R61: InvSubBytes undoes SubBytes on every block, and SubBytes undoes InvSubBytes. -/
def Obligations.InvSubBytesUndoesSubBytes : Prop :=
  ∀ s : Block, invSubBytes (subBytes s) = s ∧ subBytes (invSubBytes s) = s

/-- R59's corner case: SubBytes commutes with every rearrangement of the bytes, ShiftRows among them. -/
def Obligations.SubBytesCommutesWithByteMoves : Prop :=
  (∀ (f : Fin 16 → Fin 16) (b : Block),
      subBytes (Vector.ofFn fun n => b[f n]) = Vector.ofFn fun n => (subBytes b)[f n]) ∧
    (∀ b : Block, subBytes (shiftRows b) = shiftRows (subBytes b)) ∧
    ∀ b : Block, invSubBytes (invShiftRows b) = invShiftRows (invSubBytes b)

/-! ### Row shift (spec/43_shiftrows.md) -/

/-- R62, R63: after ShiftRows the entry of row r at column c is the one that was at column (c + r) mod 4, after
InvShiftRows the one at (c - r) mod 4. As byte permutations they are the tables P and Q, the sentences of the rules that
the spec marks as its own inference. -/
def Obligations.ShiftRowsRotatesRowRByRPositions : Prop :=
  ∀ b : Block,
    (∀ r c : Fin 4, stateByte (shiftRows b) r c = stateByte b r ⟨(c.val + r.val) % 4, Nat.mod_lt _ (by decide)⟩) ∧
    (∀ r c : Fin 4,
      stateByte (invShiftRows b) r c = stateByte b r ⟨(c.val + 4 - r.val) % 4, Nat.mod_lt _ (by decide)⟩) ∧
    shiftRows b = #v[b[0], b[5], b[10], b[15], b[4], b[9], b[14], b[3],
      b[8], b[13], b[2], b[7], b[12], b[1], b[6], b[11]] ∧
    invShiftRows b = #v[b[0], b[13], b[10], b[7], b[4], b[1], b[14], b[11],
      b[8], b[5], b[2], b[15], b[12], b[9], b[6], b[3]]

/-- R63's corner case and R62's: the two shifts undo each other, and four forward shifts are the identity. -/
def Obligations.InvShiftRowsUndoesShiftRows : Prop :=
  ∀ b : Block, invShiftRows (shiftRows b) = b ∧ shiftRows (invShiftRows b) = b ∧
    shiftRows (shiftRows (shiftRows (shiftRows b))) = b

/-! ### Column mix (spec/44_mixcolumns.md) -/

/-- R64: xtime is left shift with reduction by 0x1b, a bijection on bytes, and distributes over XOR. -/
def Obligations.XtimeIsLinearAndBijective : Prop :=
  (∀ a : Byte, xtime a = if a.getLsbD 7 then (a <<< 1) ^^^ 0x1b#8 else a <<< 1) ∧
    (∀ a b : Byte, xtime (a ^^^ b) = xtime a ^^^ xtime b) ∧
    Function.Bijective xtime

/-- R67, R68: output i multiplies input j by coefficient [2,3,1,1][(j-i) mod 4], and by [14,11,13,9][(j-i) mod 4]. -/
def Obligations.MixColumnIsTheCirculantProduct : Prop :=
  ∀ (a : Word) (i : Fin 4),
    (mixColumn a)[i] =
      gfMul a[0] (#v[2, 3, 1, 1] : Word)[0 - i] ^^^ gfMul a[1] (#v[2, 3, 1, 1] : Word)[1 - i] ^^^
        gfMul a[2] (#v[2, 3, 1, 1] : Word)[2 - i] ^^^ gfMul a[3] (#v[2, 3, 1, 1] : Word)[3 - i] ∧
    (invMixColumn a)[i] =
      gfMul a[0] (#v[14, 11, 13, 9] : Word)[0 - i] ^^^ gfMul a[1] (#v[14, 11, 13, 9] : Word)[1 - i] ^^^
        gfMul a[2] (#v[14, 11, 13, 9] : Word)[2 - i] ^^^ gfMul a[3] (#v[14, 11, 13, 9] : Word)[3 - i]

/-- R68: "InvMixColumn(MixColumn(c)) = c for every column c", and the other way round. -/
def Obligations.InvMixColumnUndoesMixColumn : Prop :=
  ∀ c : Word, invMixColumn (mixColumn c) = c ∧ mixColumn (invMixColumn c) = c

/-- R69: MixColumns and InvMixColumns act on each of the 4 columns by itself. -/
def Obligations.MixColumnsActsColumnByColumn : Prop :=
  ∀ (b : Block) (c : Fin 4),
    column (mixColumns b) c = mixColumn (column b c) ∧ column (invMixColumns b) c = invMixColumn (column b c)

/-- R70: MixColumns and InvMixColumns are linear over XOR. -/
def Obligations.MixColumnsIsLinear : Prop :=
  ∀ x y : Block,
    mixColumns (xorBlock x y) = xorBlock (mixColumns x) (mixColumns y) ∧
    invMixColumns (xorBlock x y) = xorBlock (invMixColumns x) (invMixColumns y)

/-! ### Round-key addition (spec/45_addroundkey.md) -/

/-- R71: byte by byte XOR, self-inverse; an all-zero operand leaves the block, the block itself gives zero. -/
def Obligations.AddRoundKeyIsSelfInverseXor : Prop :=
  ∀ b x : Block,
    (∀ (i : Nat) (hi : i < 16), (addRoundKey b x)[i] = b[i] ^^^ x[i]) ∧
    addRoundKey (addRoundKey b x) x = b ∧
    addRoundKey b (Vector.replicate 16 0) = b ∧
    addRoundKey b b = Vector.replicate 16 0

/-! ### The cipher (spec/46_orchestrator.md) -/

/-- R74: "for all keys K and plaintexts P, decrypt(encrypt(P, K), K) == P". -/
def Obligations.DecryptUndoesEncrypt : Prop :=
  ∀ key pt : Block, decrypt key (encrypt key pt) = pt

/-- The same law the other way: encryption undoes decryption, so each is a permutation of the blocks. -/
def Obligations.EncryptUndoesDecrypt : Prop :=
  ∀ key ct : Block, encrypt key (decrypt key ct) = ct

/-! ### Commands (spec/46_orchestrator.md R72, R81; 60_exceptions.md R84) -/

/-- R72: in PHASE = IDLE every command is accepted, and the whole next state: DONE is cleared; a valid mode captures
DIR, BLK, SCHED, K, PHASE and BUSY; an invalid mode writes ERR and PHASE only. Everything else is as before. The last
clause: the step is enabled with rst = 0, start = 1 and PHASE = IDLE, and its mode selects which of the four it is. -/
def Obligations.AcceptStepCapturesTheCommand : Prop :=
  ∀ (key din : Port) (s : State), s.phase = .idle →
    exec (.enc key din) s = .next { s with
      done := false, dir := some .forward,
      blk := some (Vector.ofFn fun n => din.extractLsb' (120 - 8 * n.val) 8),
      sched := some (keyExpansion (Vector.ofFn fun n => key.extractLsb' (120 - 8 * n.val) 8)),
      k := 0, phase := .busy, busy := true } ∧
    exec (.dec key din) s = .next { s with
      done := false, dir := some .inverse,
      blk := some (Vector.ofFn fun n => din.extractLsb' (120 - 8 * n.val) 8),
      sched := some (keyExpansion (Vector.ofFn fun n => key.extractLsb' (120 - 8 * n.val) 8)),
      k := 0, phase := .busy, busy := true } ∧
    exec (.invalidMode2 key din) s = .next { s with done := false, err := true, phase := .fault } ∧
    exec (.invalidMode3 key din) s = .next { s with done := false, err := true, phase := .fault } ∧
    ∀ (mode : Mode) (rest : List Turn),
      step (s.withAgenda (.drive ⟨false, true, mode, key, din⟩ :: rest)) =
        exec (if mode = Config.modeEnc then .enc key din else if mode = Config.modeDec then .dec key din
          else if mode = 0b10#2 then .invalidMode2 key din else .invalidMode3 key din) (s.withAgenda rest)

/-- R84: what raises InvalidMode, what it writes ("BUSY stays 0; K stays 0; BLK, SCHED, DIR, DOUT keep their values"),
and that nothing else raises it ("Raised by: the accept step only; no round step raises anything"): ERR rises in a step only when a
command whose mode is neither MODE_ENC nor MODE_DEC is presented in PHASE = IDLE without reset. -/
def Obligations.InvalidModeIsPreciseAndRaisedOnlyByAnIllegalMode : Prop :=
  (∀ (key din : Port) (s : State), s.phase = .idle →
    exec (.invalidMode2 key din) s = .next { s with done := false, err := true, phase := .fault } ∧
    exec (.invalidMode3 key din) s = .next { s with done := false, err := true, phase := .fault }) ∧
  ∀ s t : State, step s = .next t → (s.err = false ∧ t.err = true ∨ s.phase ≠ .fault ∧ t.phase = .fault) →
    s.phase = .idle ∧ ∃ (p : InPorts) (rest : List Turn), s.agenda = .drive p :: rest ∧ p.rst = false ∧
      p.start = true ∧ p.mode ≠ Config.modeEnc ∧ p.mode ≠ Config.modeDec

/-- R81: while PHASE = BUSY or PHASE = FAULT every command is ignored: no state is written and no fault is raised; and
so a step with rst = 0 and start = 1 changes nothing, whatever mode, key and din hold. -/
def Obligations.CommandsAreIgnoredWhileBusyOrFaulted : Prop :=
  ∀ s : State, s.phase = .busy ∨ s.phase = .fault →
    (∀ i : Instr, exec i s = .next s) ∧
    ∀ (mode : Mode) (key din : Port) (rest : List Turn), s.agenda = .drive ⟨false, true, mode, key, din⟩ :: rest →
      step s = .next { s with agenda := rest }

/-- R96: a command right after another, with no step between them, is lost, and BUSY or ERR tells that the first was taken. -/
def Obligations.SecondCommandWithoutWaitingIsLost : Prop :=
  ∀ (i j : Instr) (s : State) (rest : List Turn), s.phase = .idle →
    s.agenda = .drive (startPorts i.mode i.key i.din) :: .drive (startPorts j.mode j.key j.din) :: rest →
    ∃ t : State, exec i (s.withAgenda rest) = .next t ∧ runSteps 2 s = .next t ∧ (t.busy = true ∨ t.err = true)

/-! ### HOST steps (spec/46_orchestrator.md R82, 70_reset_and_hazards.md) -/

/-- A step runs the decoded command: with start = 1 and rst = 0 the step is exec of the command that the word on the
ports decodes to, the turn having left the agenda; and so it is for the word that `withFetchWord` places. -/
def Obligations.StepRunsTheDecodedCommand : Prop :=
  (∀ (p : InPorts) (rest : List Turn) (i : Instr) (s : State), s.agenda = .drive p :: rest → p.rst = false →
    p.start = true → decode (commandOf p.mode p.key p.din).toNat = .ok i →
    step s = exec i (s.withAgenda rest)) ∧
  ∀ (nbits w : Nat) (i : Instr) (s : State), decodeTableWord nbits w = some i →
    step (s.withFetchWord nbits w) = exec i s

/-- R92 and R93: a step with rst = 1 is a Reset step whatever start and the other ports hold, in every phase: each
register takes its reset value. -/
def Obligations.ResetStepBeatsEverything : Prop :=
  ∀ (p : InPorts) (rest : List Turn) (s : State), s.agenda = .drive p :: rest → p.rst = true →
    ∃ t : State, step s = .next t ∧ t.phase = .idle ∧ t.k = 0 ∧ t.busy = false ∧ t.done = false ∧ t.err = false ∧
      t.blk = none ∧ t.sched = none ∧ t.dir = none ∧ t.dout = none

/-- R46: "A step with `start = 0` presents no command whatever the other input ports hold": nothing changes but the agenda. -/
def Obligations.StepWithoutStartPresentsNoCommand : Prop :=
  ∀ (p : InPorts) (rest : List Turn) (s : State), s.agenda = .drive p :: rest → p.rst = false → p.start = false →
    step s = .next (s.withAgenda rest)

/-- R21, R22 and R95: a Read shows dout and the flags and writes no register; while DOUT holds no value it shows no dout
and is recorded as the ReadUnwritten fault. A Status shows the flags and never faults. That the HOST's readings are
kept in a list, and that the machine goes on after the fault of a read, is the model's choice (log 5, log 15). -/
def Obligations.HostReadsShowTheOutputs : Prop :=
  (∀ (b : Block) (rest : List Turn) (s : State), s.agenda = .read :: rest → s.dout = some b →
    step s = .next { s with
      agenda := rest,
      observed := .read (portOfBlock b) s.busy s.done s.err :: s.observed } ∧
    s.outPorts = ⟨some (portOfBlock b), s.busy, s.done, s.err⟩) ∧
  (∀ (rest : List Turn) (s : State), s.agenda = .read :: rest → s.dout = none →
    step s = .next { s with
      agenda := rest,
      observed := .readUnwritten s.busy s.done s.err :: s.observed }) ∧
  ∀ (rest : List Turn) (s : State), s.agenda = .status :: rest →
    step s = .next { s with
      agenda := rest,
      observed := .status s.busy s.done s.err :: s.observed }

/-- R22: after a Reset step BLK, SCHED, DIR and DOUT hold no value; a Read of dout with no value is the fault of the read,
recorded (log 15); in every state of
the invariant with PHASE = BUSY the CORE reads written registers only, its step being that of their contents. In any
state with PHASE = BUSY and K at most 10, written or not, the CORE's step runs: on the model's free values where a
register holds none (log 12). -/
def Obligations.UnwrittenRegistersAreNeverReadByTheCore : Prop :=
  (∀ s : State, s.resetStep.blk = none ∧ s.resetStep.sched = none ∧ s.resetStep.dir = none ∧
    s.resetStep.dout = none) ∧
  (∀ s : State, s.dout = none → hostRead s = .next (s.observe (.readUnwritten s.busy s.done s.err))) ∧
  (∀ s : State, s.Inv → s.phase = .busy → ∃ (d : Direction) (b : Block) (sc : Schedule) (hk : s.k.toNat < 11),
    s.dir = some d ∧ s.blk = some b ∧ s.sched = some sc ∧
      coreStep s = .next (roundStep d sc ⟨s.k.toNat, hk⟩ b s)) ∧
  ∀ s : State, s.phase = .busy → s.k.toNat ≤ 10 → ∃ t : State, coreStep s = .next t ∧ t.blk.isSome = true

/-- Who moves (the model's choice of schedule, log 2 to log 4): a `core` turn is the CORE's step and leaves the agenda;
with no turn left the CORE steps; a `wait` is the CORE's steps while busy = 1 and ends at busy = 0. -/
def Obligations.TurnsOfTheCore : Prop :=
  (∀ (rest : List Turn) (s : State), s.agenda = .core :: rest → step s = coreStep (s.withAgenda rest)) ∧
  (∀ s : State, s.agenda = [] → step s = coreStep s) ∧
  (∀ (rest : List Turn) (s : State), s.agenda = .wait :: rest → s.busy = true → step s = coreStep s) ∧
  ∀ (rest : List Turn) (s : State), s.agenda = .wait :: rest → s.busy = false → step s = .next (s.withAgenda rest)

/-! ### CORE steps (spec/46_orchestrator.md R75 to R80) -/

/-- R75: ENC round step K = 0. -/
def Obligations.EncRoundStepZero : Prop :=
  ∀ (s : State) (b : Block) (sc : Schedule), s.phase = .busy → s.dir = some .forward → s.blk = some b →
    s.sched = some sc → s.k = 0 →
    coreStep s = .next { s with blk := some (addRoundKey b (roundKey sc 0)), k := 1 }

/-- R76: ENC round step K = 1..9. -/
def Obligations.EncFullRoundStep : Prop :=
  ∀ (s : State) (b : Block) (sc : Schedule) (r : Round), s.phase = .busy → s.dir = some .forward →
    s.blk = some b → s.sched = some sc → s.k.toNat = r.val → 1 ≤ r.val → r.val ≤ 9 →
    coreStep s = .next { s with
      blk := some (addRoundKey (mixColumns (shiftRows (subBytes b))) (roundKey sc r)), k := s.k + 1 }

/-- R77: ENC round step K = 10, the completion. -/
def Obligations.EncFinalRoundStep : Prop :=
  ∀ (s : State) (b : Block) (sc : Schedule), s.phase = .busy → s.dir = some .forward → s.blk = some b →
    s.sched = some sc → s.k = 10 →
    coreStep s = .next { s with
      blk := some (addRoundKey (shiftRows (subBytes b)) (roundKey sc 10)),
      dout := some (addRoundKey (shiftRows (subBytes b)) (roundKey sc 10)),
      done := true, busy := false, phase := .idle, k := 0 }

/-- R78: DEC round step K = 0. -/
def Obligations.DecRoundStepZero : Prop :=
  ∀ (s : State) (b : Block) (sc : Schedule), s.phase = .busy → s.dir = some .inverse → s.blk = some b →
    s.sched = some sc → s.k = 0 →
    coreStep s = .next { s with blk := some (addRoundKey b (roundKey sc 10)), k := 1 }

/-- R79: DEC round step K = 1..9 with r = 10 - K: the round key is passed through InvMixColumns first, and SCHED is not
modified. -/
def Obligations.DecFullRoundStep : Prop :=
  ∀ (s : State) (b : Block) (sc : Schedule) (r : Round), s.phase = .busy → s.dir = some .inverse →
    s.blk = some b → s.sched = some sc → s.k.toNat + r.val = 10 → 1 ≤ r.val → r.val ≤ 9 →
    coreStep s = .next { s with
      blk := some (addRoundKey (invMixColumns (invShiftRows (invSubBytes b))) (invMixColumns (roundKey sc r))),
      k := s.k + 1 }

/-- The two [derived] sentences of R79: the step equals `BLK <- InvMixColumns(InvShiftRows(InvSubBytes(BLK)) XOR
rk(r))`, and InvSubBytes and InvShiftRows may run in either order. -/
def Obligations.DecFullRoundStepHasTheStandardOrder : Prop :=
  ∀ (s : State) (b : Block) (sc : Schedule) (r : Round), s.phase = .busy → s.dir = some .inverse →
    s.blk = some b → s.sched = some sc → s.k.toNat + r.val = 10 → 1 ≤ r.val → r.val ≤ 9 →
    coreStep s = .next { s with
      blk := some (invMixColumns (xorBlock (invShiftRows (invSubBytes b)) (roundKey sc r))), k := s.k + 1 } ∧
    coreStep s = .next { s with
      blk := some (invMixColumns (xorBlock (invSubBytes (invShiftRows b)) (roundKey sc r))), k := s.k + 1 }

/-- R80: DEC round step K = 10, the completion. -/
def Obligations.DecFinalRoundStep : Prop :=
  ∀ (s : State) (b : Block) (sc : Schedule), s.phase = .busy → s.dir = some .inverse → s.blk = some b →
    s.sched = some sc → s.k = 10 →
    coreStep s = .next { s with
      blk := some (addRoundKey (invShiftRows (invSubBytes b)) (roundKey sc 0)),
      dout := some (addRoundKey (invShiftRows (invSubBytes b)) (roundKey sc 0)),
      done := true, busy := false, phase := .idle, k := 0 }

/-- "In PHASE = IDLE and PHASE = FAULT the CORE has no step" (R82). That a CORE turn there is a step which changes
nothing is the model's choice (log 4). -/
def Obligations.CoreHasNoStepOutsideBusy : Prop :=
  ∀ s : State, s.phase = .idle ∨ s.phase = .fault → coreStep s = .next s

/-! ### Invariants -/

/-- The invariants hold in the reset state (R23). -/
def Obligations.InvariantsHoldAtReset : Prop :=
  State.reset.Inv ∧ ∀ (d : Direction) (key din : Port), State.reset.OnCourse d key din

/-- R13, R14, R16, R22: every step keeps the relations of phase, round index, flags and data registers, from every
state that has them. -/
def Obligations.StepKeepsTheControlInvariant : Prop :=
  ∀ s t : State, s.Inv → step s = .next t → t.Inv

/-- R10, R11, R15, R16, for the SAME command, direction d, key and din: (1) the step that accepts it puts the operation
at its entry, with DONE = 0; (2) every other step keeps SCHED the expansion of its key, BLK its din taken through the
first K round steps, and DOUT its result while DONE = 1; (3) a step of its operation leaves DOUT and goes on at K or
K + 1, or completes at K = 10 with its result in DOUT and DONE = 1, or is a Reset step. -/
def Obligations.StepKeepsTheOperationOnCourse : Prop :=
  ∀ (d : Direction) (key din : Port) (s : State),
    (s.acceptedCommand = some (d, key, din) → ∃ t : State, step s = .next t ∧ t.OnCourse d key din ∧
      t.phase = .busy ∧ t.k = 0 ∧ t.done = false ∧ t.dout = s.dout) ∧
    ∀ t : State, s.OnCourse d key din → step s = .next t →
      (s.acceptedCommand = none → t.OnCourse d key din) ∧
      (s.phase = .busy →
        (t.phase = .busy ∧ t.dout = s.dout ∧ t.done = s.done ∧ (t.k = s.k ∨ t.k = s.k + 1)) ∨
        (s.k = 10 ∧ t.phase = .idle ∧ t.k = 0 ∧ t.done = true ∧ t.dout = some (cipherResult d key din)) ∨
        (t.phase = .idle ∧ t.done = false ∧ t.dout = none ∧
          ∃ (p : InPorts) (rest : List Turn), s.agenda = .drive p :: rest ∧ p.rst = true))

/-- R17: the status vector packs the three flags, and under the invariant it has one of its four legal values. -/
def Obligations.StatusVectorIsLegal : Prop :=
  ∀ s : State,
    (s.statusVector.getLsbD 0 = s.busy ∧ s.statusVector.getLsbD 1 = s.done ∧ s.statusVector.getLsbD 2 = s.err) ∧
    (s.Inv → s.statusVector = 0b000#3 ∨ s.statusVector = 0b010#3 ∨ s.statusVector = 0b001#3 ∨
      s.statusVector = 0b100#3)

/-- R85, R37, R22: from a state of the invariant no step stops: nothing is refused, and no instruction, no CORE step and
no HOST step answers a fault. The step records the fault of a read exactly when the turn is the HOST's Read and DOUT
holds no value (log 15). -/
def Obligations.NoStepStopsUnderTheInvariant : Prop :=
  ∀ s : State, s.Inv →
    ∃ t : State, step s = .next t ∧
      ((∃ busy done err : Bool, t.observed = .readUnwritten busy done err :: s.observed) ↔
        s.dout = none ∧ ∃ rest : List Turn, s.agenda = .read :: rest)

/-! ### Rules of the whole machine -/

/-- R15: DOUT changes in a step only at the completion K = 10 of an operation, where it takes BLK, or in a Reset step,
where it holds no value after; and no step changes what is still to come on the input ports. -/
def Obligations.DoutChangesOnlyAtCompletionOrReset : Prop :=
  ∀ s t : State, step s = .next t →
    (t.agenda = s.agenda ∨ t.agenda = s.agenda.tail) ∧
    (t.dout = s.dout ∨
      (s.phase = .busy ∧ s.k = 10 ∧ t.dout = t.blk ∧ t.dout.isSome = true ∧ t.done = true) ∨
      (t.dout = none ∧ ∃ (p : InPorts) (rest : List Turn), s.agenda = .drive p :: rest ∧ p.rst = true))

/-- R11: SCHED changes in a step only when a valid command is accepted, which sets it to the expansion of the
command's key, or in a Reset step. -/
def Obligations.ScheduleChangesOnlyWhenACommandIsAccepted : Prop :=
  ∀ s t : State, step s = .next t → t.sched ≠ s.sched →
    ∃ (p : InPorts) (rest : List Turn), s.agenda = .drive p :: rest ∧
      ((p.rst = true ∧ t.sched = none) ∨
        (p.rst = false ∧ p.start = true ∧ s.phase = .idle ∧ (p.mode = 0b00#2 ∨ p.mode = 0b01#2) ∧
          t.sched = some (keyExpansion (blockOfPort p.key))))

/-- R86: from PHASE = FAULT a step that is no Reset step changes no register, and a Reset step gives the reset values. -/
def Obligations.FaultIsLeftOnlyByReset : Prop :=
  ∀ s t : State, s.phase = .fault → step s = .next t →
    (∃ (p : InPorts) (rest : List Turn), s.agenda = .drive p :: rest ∧ p.rst = true ∧
      t = { State.reset with agenda := t.agenda, observed := t.observed }) ∨
    t = { s with agenda := t.agenda, observed := t.observed }

/-! ### Completion -/

/-- R73: ENC, the command word with mode 0b00, from any idle state with the HOST waiting: 13 steps (the accept step, 11
CORE steps, the end of the wait, which is a turn of the model's choice, log 3) give DONE = 1 and the ciphertext `encrypt key din` in DOUT; ERR is not written. -/
def Obligations.EncCommandCompletesWithTheCiphertext : Prop :=
  ∀ (key din : Port) (rest : List Turn) (s : State), s.phase = .idle →
    s.agenda = .drive (InPorts.ofWord (encode (.enc key din)).toNat) :: .wait :: rest →
    runSteps 13 s = .next { s with
      blk := some (encrypt (blockOfPort key) (blockOfPort din)),
      dout := some (encrypt (blockOfPort key) (blockOfPort din)),
      sched := some (keyExpansion (blockOfPort key)), dir := some .forward, phase := .idle, k := 0,
      busy := false, done := true, agenda := rest }

/-- R74: DEC, the command word with mode 0b01, likewise (the wait is log 3's) with the plaintext `decrypt key din`. -/
def Obligations.DecCommandCompletesWithThePlaintext : Prop :=
  ∀ (key din : Port) (rest : List Turn) (s : State), s.phase = .idle →
    s.agenda = .drive (InPorts.ofWord (encode (.dec key din)).toNat) :: .wait :: rest →
    runSteps 13 s = .next { s with
      blk := some (decrypt (blockOfPort key) (blockOfPort din)),
      dout := some (decrypt (blockOfPort key) (blockOfPort din)),
      sched := some (keyExpansion (blockOfPort key)), dir := some .inverse, phase := .idle, k := 0,
      busy := false, done := true, agenda := rest }

/-- R98 under every interleaving (R82): after an accepted valid command, HOST steps of any kind but Reset (commands,
Nops, reads) may stand between the CORE's steps. With n ≤ 10 CORE steps taken the operation is at K = n and DONE is 0;
with the 11th CORE step it completes, with the command's result, and not before. -/
def Obligations.OperationCompletesAfterElevenCoreSteps : Prop :=
  ∀ (d : Direction) (key din : Port) (turns rest : List Turn) (s : State), s.phase = .idle →
    s.agenda = .drive (startPorts d.modeCode key din) ::
      (turns ++ rest) →
    turns.all Turn.keepsOperation = true →
    (turns.count .core ≤ 10 → ∃ t : State, runSteps (1 + turns.length) s = .next t ∧ t.agenda = rest ∧
      t.phase = .busy ∧ t.busy = true ∧ t.done = false ∧ t.dout = s.dout ∧ t.k.toNat = turns.count .core) ∧
    (∀ before : List Turn, turns = before ++ [.core] → turns.count .core = 11 →
      ∃ t : State, runSteps (1 + turns.length) s = .next t ∧ t.agenda = rest ∧ t.phase = .idle ∧
        t.busy = false ∧ t.done = true ∧ t.err = s.err ∧ t.k = 0 ∧ t.dout = some (cipherResult d key din))

/-- R99: the control part of the machine (phases, round index, direction, flags, and which registers hold a value)
never depends on key or block: of two states that agree on it and on the turns but for the key and din they carry, one
steps exactly when the other does, and they still agree. -/
def Obligations.ControlNeverDependsOnKeyOrBlock : Prop :=
  ∀ s s' t : State, s.control = s'.control →
    s.agenda.map Turn.withoutData = s'.agenda.map Turn.withoutData → step s = .next t →
    ∃ t' : State, step s' = .next t' ∧ t.control = t'.control ∧
      t.agenda.map Turn.withoutData = t'.agenda.map Turn.withoutData

/-- R24: "No state of one operation influences a later one": two idle states, whatever they hold, given the same command
and the wait for it end with the same data registers and flags but ERR. -/
def Obligations.OperationsAreIndependent : Prop :=
  ∀ (i : Instr) (rest : List Turn) (s s' : State), s.phase = .idle → s'.phase = .idle →
    i = .enc i.key i.din ∨ i = .dec i.key i.din →
    s.agenda = .drive (startPorts i.mode i.key i.din) :: .wait :: rest → s'.agenda = s.agenda →
    ∃ t t' : State, runSteps 13 s = .next t ∧ runSteps 13 s' = .next t' ∧
      t = { t' with err := s.err, observed := s.observed }

/-- R12: DIR changes in a step only when ENC is accepted (to forward, 0) or DEC (to inverse, 1), so an invalid mode is
never captured, or in a Reset step, after which it holds no value (R22, R23). -/
def Obligations.DirectionChangesOnlyWhenACommandIsAccepted : Prop :=
  ∀ s t : State, step s = .next t → t.dir ≠ s.dir →
    ∃ (p : InPorts) (rest : List Turn), s.agenda = .drive p :: rest ∧
      ((p.rst = true ∧ t.dir = none) ∨
        (p.rst = false ∧ p.start = true ∧ s.phase = .idle ∧
          ((p.mode = Config.modeEnc ∧ t.dir = some .forward) ∨ (p.mode = Config.modeDec ∧ t.dir = some .inverse))))

end
end

