-- ==== Sys2Proof/Laws/Bytes.lean ====
section
/-! SUPPORT. One lemma per byte-level function: what byte it puts at each position; and the facts about single bytes that the transforms' laws rest on. -/

namespace Sys2Proof.Machine

section Positions

variable (b x : Block) (n : Nat) (h : n < 16)

@[simp] theorem blockOfPort_getElem (p : Port) : (blockOfPort p)[n] = portByte p ⟨n, h⟩ := by
  simp [blockOfPort]

@[simp] theorem subBytes_getElem : (subBytes b)[n] = sbox b[n] := by
  simp [subBytes]

@[simp] theorem invSubBytes_getElem : (invSubBytes b)[n] = invSbox b[n] := by
  simp [invSubBytes]

@[simp] theorem xorBlock_getElem : (xorBlock b x)[n] = b[n] ^^^ x[n] := by
  simp [xorBlock]

@[simp] theorem addRoundKey_getElem : (addRoundKey b x)[n] = b[n] ^^^ x[n] := by
  simp [addRoundKey]

theorem shiftRows_getElem :
    (shiftRows b)[n] = stateByte b (rowOf ⟨n, h⟩) (colOf ⟨n, h⟩ + rowOf ⟨n, h⟩) := by
  simp [shiftRows]

theorem invShiftRows_getElem :
    (invShiftRows b)[n] = stateByte b (rowOf ⟨n, h⟩) (colOf ⟨n, h⟩ - rowOf ⟨n, h⟩) := by
  simp [invShiftRows]

theorem blockOfColumns_getElem (cols : Vector Word 4) :
    (blockOfColumns cols)[n] = cols[colOf ⟨n, h⟩][rowOf ⟨n, h⟩] := by
  simp [blockOfColumns]

theorem roundKey_getElem (sc : Schedule) (r : Round) :
    (roundKey sc r)[n] = sc[16 * r.val + n]'(by omega) := by
  simp [roundKey]

end Positions

@[simp] theorem bytePos_rowOf_colOf (n : Fin 16) : bytePos (rowOf n) (colOf n) = n := by
  revert n; decide

@[simp] theorem rowOf_bytePos (r c : Fin 4) : rowOf (bytePos r c) = r := by
  revert r c; decide

@[simp] theorem colOf_bytePos (r c : Fin 4) : colOf (bytePos r c) = c := by
  revert r c; decide

/-- Two blocks with the same state bytes are equal. -/
theorem block_ext {b x : Block} (h : ∀ r c, stateByte b r c = stateByte x r c) : b = x := by
  apply Vector.ext
  intro n hn
  have := h (rowOf ⟨n, hn⟩) (colOf ⟨n, hn⟩)
  simpa [stateByte] using this

theorem stateByte_blockOfColumns (cols : Vector Word 4) (r c : Fin 4) :
    stateByte (blockOfColumns cols) r c = cols[c][r] := by
  have := blockOfColumns_getElem (bytePos r c).val (bytePos r c).isLt cols
  simpa [stateByte] using this

@[simp] theorem column_getElem (b : Block) (c : Fin 4) (j : Nat) (h : j < 4) :
    (column b c)[j] = stateByte b ⟨j, h⟩ c := by
  simp [column]

/-- The state byte at row r, column c after each bytewise or byte-moving transform (spec R59, R60, R62, R63, R71). -/
theorem stateByte_subBytes (b : Block) (r c : Fin 4) : stateByte (subBytes b) r c = sbox (stateByte b r c) := by
  simp [stateByte]

theorem stateByte_invSubBytes (b : Block) (r c : Fin 4) :
    stateByte (invSubBytes b) r c = invSbox (stateByte b r c) := by
  simp [stateByte]

theorem stateByte_xorBlock (b x : Block) (r c : Fin 4) :
    stateByte (xorBlock b x) r c = stateByte b r c ^^^ stateByte x r c := by
  simp [stateByte]

theorem stateByte_shiftRows (b : Block) (r c : Fin 4) :
    stateByte (shiftRows b) r c = stateByte b r (c + r) := by
  have := shiftRows_getElem b (bytePos r c).val (bytePos r c).isLt
  simpa [stateByte] using this

theorem stateByte_invShiftRows (b : Block) (r c : Fin 4) :
    stateByte (invShiftRows b) r c = stateByte b r (c - r) := by
  have := invShiftRows_getElem b (bytePos r c).val (bytePos r c).isLt
  simpa [stateByte] using this

@[simp] theorem xorWord_getElem (u v : Word) (j : Nat) (h : j < 4) : (xorWord u v)[j] = u[j] ^^^ v[j] := by
  simp [xorWord]

@[simp] theorem subWord_getElem (t : Word) (j : Nat) (h : j < 4) : (subWord t)[j] = sbox t[j] := by
  simp [subWord]

theorem scheduleWord_getElem (sc : Schedule) (i : Fin 44) (j : Nat) (h : j < 4) :
    (scheduleWord sc i)[j] = sc[4 * i.val + j]'(by omega) := by
  simp [scheduleWord]

/-- The two tables are mutual inverses (spec/42_subbytes.md R57, R61). -/
theorem invSbox_sbox : ∀ b : Byte, invSbox (sbox b) = b := by decide +kernel

theorem sbox_invSbox : ∀ b : Byte, sbox (invSbox b) = b := by decide +kernel

/-- RCON is the chain of doublings of 1 (spec/41_keyschedule.md R49). -/
theorem rcon_one : rcon 1 = 0x01#8 := rfl

theorem rcon_succ : ∀ j : Fin 11, 2 ≤ j.val → rcon j = xtime (rcon (j - 1)) := by decide

/-- The fixed multipliers are products in GF(2^8) modulo 0x11b (spec/44_mixcolumns.md R65, R66). -/
theorem mul2_eq_gfMul : ∀ a : Byte, mul2 a = gfMul a 2 := by decide +kernel

theorem mul3_eq_gfMul : ∀ a : Byte, mul3 a = gfMul a 3 := by decide +kernel

theorem mul9_eq_gfMul : ∀ a : Byte, mul9 a = gfMul a 9 := by decide +kernel

theorem mul11_eq_gfMul : ∀ a : Byte, mul11 a = gfMul a 11 := by decide +kernel

theorem mul13_eq_gfMul : ∀ a : Byte, mul13 a = gfMul a 13 := by decide +kernel

theorem mul14_eq_gfMul : ∀ a : Byte, mul14 a = gfMul a 14 := by decide +kernel

end Sys2Proof.Machine
end

