-- ==== Sys2Proof/Laws/Encoding.lean ====
section
/-! SUPPORT. What the fields of an assembled command word are, and what `lowBits` is. -/

namespace Sys2Proof

/-- The number a command word is, field by field (spec/30_encoding.md R43). -/
theorem commandOf_toNat (mode : Mode) (key din : Port) :
    (commandOf mode key din).toNat = (mode.toNat * 2 ^ 128 + key.toNat) * 2 ^ 128 + din.toNat := by
  unfold commandOf
  simp only [BitVec.toNat_append]
  rw [← Nat.shiftLeft_add_eq_or_of_lt key.isLt, ← Nat.shiftLeft_add_eq_or_of_lt din.isLt,
    Nat.shiftLeft_eq, Nat.shiftLeft_eq]

@[simp] theorem commandMode_commandOf (mode : Mode) (key din : Port) :
    commandMode (commandOf mode key din).toNat = mode := by
  rw [commandOf_toNat]
  have hm := mode.isLt
  have hk := key.isLt
  have hd := din.isLt
  apply BitVec.eq_of_toNat_eq
  simp only [commandMode, BitVec.toNat_ofNat]
  omega

@[simp] theorem commandKey_commandOf (mode : Mode) (key din : Port) :
    commandKey (commandOf mode key din).toNat = key := by
  rw [commandOf_toNat]
  have hk := key.isLt
  have hd := din.isLt
  apply BitVec.eq_of_toNat_eq
  simp only [commandKey, BitVec.toNat_ofNat]
  omega

@[simp] theorem commandDin_commandOf (mode : Mode) (key din : Port) :
    commandDin (commandOf mode key din).toNat = din := by
  rw [commandOf_toNat]
  have hd := din.isLt
  apply BitVec.eq_of_toNat_eq
  simp only [commandDin, BitVec.toNat_ofNat]
  omega

/-- `lowBits` is the remainder by `2 ^ nbits`. -/
theorem lowBits_eq (nbits w : Nat) : lowBits nbits w = w % 2 ^ nbits := by
  unfold lowBits
  split
  · rfl
  · have h : nbits = 256 + (nbits - 256) := by omega
    conv_rhs => rw [h, Nat.pow_add, Nat.mod_mul]
    rw [Nat.mul_comm (2 ^ 256)]

end Sys2Proof
end

