-- ==== Sys2Proof/Laws/State.lean ====
section
/-! SUPPORT. What each named update of State does to each field, one lemma per field, so that no proof unfolds a record update. -/

namespace Sys2Proof.Machine

@[simp] theorem State.clearDone_blk (s : State) : (s.clearDone).blk = s.blk := rfl
@[simp] theorem State.clearDone_sched (s : State) : (s.clearDone).sched = s.sched := rfl
@[simp] theorem State.clearDone_dir (s : State) : (s.clearDone).dir = s.dir := rfl
@[simp] theorem State.clearDone_phase (s : State) : (s.clearDone).phase = s.phase := rfl
@[simp] theorem State.clearDone_k (s : State) : (s.clearDone).k = s.k := rfl
@[simp] theorem State.clearDone_dout (s : State) : (s.clearDone).dout = s.dout := rfl
@[simp] theorem State.clearDone_busy (s : State) : (s.clearDone).busy = s.busy := rfl
@[simp] theorem State.clearDone_done (s : State) : (s.clearDone).done = false := rfl
@[simp] theorem State.clearDone_err (s : State) : (s.clearDone).err = s.err := rfl
@[simp] theorem State.clearDone_agenda (s : State) : (s.clearDone).agenda = s.agenda := rfl
@[simp] theorem State.clearDone_observed (s : State) : (s.clearDone).observed = s.observed := rfl

@[simp] theorem State.completionFlags_blk (s : State) : (s.completionFlags).blk = s.blk := rfl
@[simp] theorem State.completionFlags_sched (s : State) : (s.completionFlags).sched = s.sched := rfl
@[simp] theorem State.completionFlags_dir (s : State) : (s.completionFlags).dir = s.dir := rfl
@[simp] theorem State.completionFlags_phase (s : State) : (s.completionFlags).phase = s.phase := rfl
@[simp] theorem State.completionFlags_k (s : State) : (s.completionFlags).k = s.k := rfl
@[simp] theorem State.completionFlags_dout (s : State) : (s.completionFlags).dout = s.dout := rfl
@[simp] theorem State.completionFlags_busy (s : State) : (s.completionFlags).busy = false := rfl
@[simp] theorem State.completionFlags_done (s : State) : (s.completionFlags).done = true := rfl
@[simp] theorem State.completionFlags_err (s : State) : (s.completionFlags).err = s.err := rfl
@[simp] theorem State.completionFlags_agenda (s : State) : (s.completionFlags).agenda = s.agenda := rfl
@[simp] theorem State.completionFlags_observed (s : State) : (s.completionFlags).observed = s.observed := rfl

@[simp] theorem State.accept_blk (d : Direction) (key din : Port) (s : State) : (s.accept d key din).blk = some (blockOfPort din) := rfl
@[simp] theorem State.accept_sched (d : Direction) (key din : Port) (s : State) : (s.accept d key din).sched = some (keyExpansion (blockOfPort key)) := rfl
@[simp] theorem State.accept_dir (d : Direction) (key din : Port) (s : State) : (s.accept d key din).dir = some d := rfl
@[simp] theorem State.accept_phase (d : Direction) (key din : Port) (s : State) : (s.accept d key din).phase = .busy := rfl
@[simp] theorem State.accept_k (d : Direction) (key din : Port) (s : State) : (s.accept d key din).k = 0 := rfl
@[simp] theorem State.accept_dout (d : Direction) (key din : Port) (s : State) : (s.accept d key din).dout = s.dout := rfl
@[simp] theorem State.accept_busy (d : Direction) (key din : Port) (s : State) : (s.accept d key din).busy = true := rfl
@[simp] theorem State.accept_done (d : Direction) (key din : Port) (s : State) : (s.accept d key din).done = s.done := rfl
@[simp] theorem State.accept_err (d : Direction) (key din : Port) (s : State) : (s.accept d key din).err = s.err := rfl
@[simp] theorem State.accept_agenda (d : Direction) (key din : Port) (s : State) : (s.accept d key din).agenda = s.agenda := rfl
@[simp] theorem State.accept_observed (d : Direction) (key din : Port) (s : State) : (s.accept d key din).observed = s.observed := rfl

@[simp] theorem State.raiseInvalidMode_blk (s : State) : (s.raiseInvalidMode).blk = s.blk := rfl
@[simp] theorem State.raiseInvalidMode_sched (s : State) : (s.raiseInvalidMode).sched = s.sched := rfl
@[simp] theorem State.raiseInvalidMode_dir (s : State) : (s.raiseInvalidMode).dir = s.dir := rfl
@[simp] theorem State.raiseInvalidMode_phase (s : State) : (s.raiseInvalidMode).phase = .fault := rfl
@[simp] theorem State.raiseInvalidMode_k (s : State) : (s.raiseInvalidMode).k = s.k := rfl
@[simp] theorem State.raiseInvalidMode_dout (s : State) : (s.raiseInvalidMode).dout = s.dout := rfl
@[simp] theorem State.raiseInvalidMode_busy (s : State) : (s.raiseInvalidMode).busy = s.busy := rfl
@[simp] theorem State.raiseInvalidMode_done (s : State) : (s.raiseInvalidMode).done = s.done := rfl
@[simp] theorem State.raiseInvalidMode_err (s : State) : (s.raiseInvalidMode).err = true := rfl
@[simp] theorem State.raiseInvalidMode_agenda (s : State) : (s.raiseInvalidMode).agenda = s.agenda := rfl
@[simp] theorem State.raiseInvalidMode_observed (s : State) : (s.raiseInvalidMode).observed = s.observed := rfl

@[simp] theorem State.resetStep_blk (s : State) : (s.resetStep).blk = none := rfl
@[simp] theorem State.resetStep_sched (s : State) : (s.resetStep).sched = none := rfl
@[simp] theorem State.resetStep_dir (s : State) : (s.resetStep).dir = none := rfl
@[simp] theorem State.resetStep_phase (s : State) : (s.resetStep).phase = .idle := rfl
@[simp] theorem State.resetStep_k (s : State) : (s.resetStep).k = 0 := rfl
@[simp] theorem State.resetStep_dout (s : State) : (s.resetStep).dout = none := rfl
@[simp] theorem State.resetStep_busy (s : State) : (s.resetStep).busy = false := rfl
@[simp] theorem State.resetStep_done (s : State) : (s.resetStep).done = false := rfl
@[simp] theorem State.resetStep_err (s : State) : (s.resetStep).err = false := rfl
@[simp] theorem State.resetStep_agenda (s : State) : (s.resetStep).agenda = s.agenda := rfl
@[simp] theorem State.resetStep_observed (s : State) : (s.resetStep).observed = s.observed := rfl

@[simp] theorem State.advance_blk (b : Block) (s : State) : (s.advance b).blk = some b := rfl
@[simp] theorem State.advance_sched (b : Block) (s : State) : (s.advance b).sched = s.sched := rfl
@[simp] theorem State.advance_dir (b : Block) (s : State) : (s.advance b).dir = s.dir := rfl
@[simp] theorem State.advance_phase (b : Block) (s : State) : (s.advance b).phase = s.phase := rfl
@[simp] theorem State.advance_k (b : Block) (s : State) : (s.advance b).k = s.k + 1 := rfl
@[simp] theorem State.advance_dout (b : Block) (s : State) : (s.advance b).dout = s.dout := rfl
@[simp] theorem State.advance_busy (b : Block) (s : State) : (s.advance b).busy = s.busy := rfl
@[simp] theorem State.advance_done (b : Block) (s : State) : (s.advance b).done = s.done := rfl
@[simp] theorem State.advance_err (b : Block) (s : State) : (s.advance b).err = s.err := rfl
@[simp] theorem State.advance_agenda (b : Block) (s : State) : (s.advance b).agenda = s.agenda := rfl
@[simp] theorem State.advance_observed (b : Block) (s : State) : (s.advance b).observed = s.observed := rfl

@[simp] theorem State.complete_blk (b : Block) (s : State) : (s.complete b).blk = some b := rfl
@[simp] theorem State.complete_sched (b : Block) (s : State) : (s.complete b).sched = s.sched := rfl
@[simp] theorem State.complete_dir (b : Block) (s : State) : (s.complete b).dir = s.dir := rfl
@[simp] theorem State.complete_phase (b : Block) (s : State) : (s.complete b).phase = .idle := rfl
@[simp] theorem State.complete_k (b : Block) (s : State) : (s.complete b).k = 0 := rfl
@[simp] theorem State.complete_dout (b : Block) (s : State) : (s.complete b).dout = some b := rfl
@[simp] theorem State.complete_busy (b : Block) (s : State) : (s.complete b).busy = false := rfl
@[simp] theorem State.complete_done (b : Block) (s : State) : (s.complete b).done = true := rfl
@[simp] theorem State.complete_err (b : Block) (s : State) : (s.complete b).err = s.err := rfl
@[simp] theorem State.complete_agenda (b : Block) (s : State) : (s.complete b).agenda = s.agenda := rfl
@[simp] theorem State.complete_observed (b : Block) (s : State) : (s.complete b).observed = s.observed := rfl

@[simp] theorem State.observe_blk (o : Observation) (s : State) : (s.observe o).blk = s.blk := rfl
@[simp] theorem State.observe_sched (o : Observation) (s : State) : (s.observe o).sched = s.sched := rfl
@[simp] theorem State.observe_dir (o : Observation) (s : State) : (s.observe o).dir = s.dir := rfl
@[simp] theorem State.observe_phase (o : Observation) (s : State) : (s.observe o).phase = s.phase := rfl
@[simp] theorem State.observe_k (o : Observation) (s : State) : (s.observe o).k = s.k := rfl
@[simp] theorem State.observe_dout (o : Observation) (s : State) : (s.observe o).dout = s.dout := rfl
@[simp] theorem State.observe_busy (o : Observation) (s : State) : (s.observe o).busy = s.busy := rfl
@[simp] theorem State.observe_done (o : Observation) (s : State) : (s.observe o).done = s.done := rfl
@[simp] theorem State.observe_err (o : Observation) (s : State) : (s.observe o).err = s.err := rfl
@[simp] theorem State.observe_agenda (o : Observation) (s : State) : (s.observe o).agenda = s.agenda := rfl
@[simp] theorem State.observe_observed (o : Observation) (s : State) : (s.observe o).observed = o :: s.observed := rfl

@[simp] theorem State.withAgenda_blk (ts : List Turn) (s : State) : (s.withAgenda ts).blk = s.blk := rfl
@[simp] theorem State.withAgenda_sched (ts : List Turn) (s : State) : (s.withAgenda ts).sched = s.sched := rfl
@[simp] theorem State.withAgenda_dir (ts : List Turn) (s : State) : (s.withAgenda ts).dir = s.dir := rfl
@[simp] theorem State.withAgenda_phase (ts : List Turn) (s : State) : (s.withAgenda ts).phase = s.phase := rfl
@[simp] theorem State.withAgenda_k (ts : List Turn) (s : State) : (s.withAgenda ts).k = s.k := rfl
@[simp] theorem State.withAgenda_dout (ts : List Turn) (s : State) : (s.withAgenda ts).dout = s.dout := rfl
@[simp] theorem State.withAgenda_busy (ts : List Turn) (s : State) : (s.withAgenda ts).busy = s.busy := rfl
@[simp] theorem State.withAgenda_done (ts : List Turn) (s : State) : (s.withAgenda ts).done = s.done := rfl
@[simp] theorem State.withAgenda_err (ts : List Turn) (s : State) : (s.withAgenda ts).err = s.err := rfl
@[simp] theorem State.withAgenda_agenda (ts : List Turn) (s : State) : (s.withAgenda ts).agenda = ts := rfl
@[simp] theorem State.withAgenda_observed (ts : List Turn) (s : State) : (s.withAgenda ts).observed = s.observed := rfl

@[simp] theorem State.withAgenda_withAgenda (ts us : List Turn) (s : State) :
    (s.withAgenda us).withAgenda ts = s.withAgenda ts := rfl

@[simp] theorem State.withAgenda_self (s : State) : s.withAgenda s.agenda = s := rfl

@[simp] theorem State.outPorts_dout (s : State) : s.outPorts.dout = s.dout.map portOfBlock := rfl

@[simp] theorem State.outPorts_busy (s : State) : s.outPorts.busy = s.busy := rfl

@[simp] theorem State.outPorts_done (s : State) : s.outPorts.done = s.done := rfl

@[simp] theorem State.outPorts_err (s : State) : s.outPorts.err = s.err := rfl

end Sys2Proof.Machine
end

