-- ==== Sys2Proof/Laws/Ops.lean ====
section
/-! SUPPORT. One lemma per shared operation and per kind of turn: everything it can do. -/

namespace Sys2Proof.Machine

/-- In PHASE = IDLE a command is accepted, DONE cleared first (R72). -/
theorem presentCommand_idle {s : State} (h : s.phase = .idle) (effect : State → State) :
    presentCommand effect s = .next (effect s.clearDone) := by
  simp [presentCommand, h]

/-- In PHASE = BUSY and PHASE = FAULT a command is ignored (R81). -/
theorem presentCommand_ignored {s : State} (h : s.phase ≠ .idle) (effect : State → State) :
    presentCommand effect s = .next s := by
  unfold presentCommand
  split <;> simp_all

/-- What a presented command can do: the two cases of R72 and R81. -/
theorem presentCommand_cases (effect : State → State) (s : State) :
    (s.phase = .idle ∧ presentCommand effect s = .next (effect s.clearDone)) ∨
      (s.phase ≠ .idle ∧ presentCommand effect s = .next s) := by
  by_cases h : s.phase = .idle
  · exact .inl ⟨h, presentCommand_idle h effect⟩
  · exact .inr ⟨h, presentCommand_ignored h effect⟩

/-- The effect of a command on an accepting core, after `DONE <- 0` (R72, R84). -/
def acceptedEffect : Instr → State → State
  | .enc key din => State.accept .forward key din
  | .dec key din => State.accept .inverse key din
  | .invalidMode2 _ _ => State.raiseInvalidMode
  | .invalidMode3 _ _ => State.raiseInvalidMode

/-- Every command is one presented command with its effect: exec never faults and never refuses. -/
theorem exec_eq_presentCommand (i : Instr) (s : State) : exec i s = presentCommand (acceptedEffect i) s := by
  cases i <;> rfl

/-- A written DIR is read as it is. -/
theorem State.readDir_written {s : State} {d : Direction} (h : s.dir = some d) : s.readDir = d := by
  simp [State.readDir, h]

/-- A written BLK is read as it is. -/
theorem State.readBlk_written {s : State} {b : Block} (h : s.blk = some b) : s.readBlk = b := by
  simp [State.readBlk, h]

/-- A written SCHED is read as it is. -/
theorem State.readSched_written {s : State} {sc : Schedule} (h : s.sched = some sc) : s.readSched = sc := by
  simp [State.readSched, h]

/-- In PHASE = IDLE and PHASE = FAULT the CORE has no step (R82). -/
theorem coreStep_not_busy {s : State} (h : s.phase ≠ .busy) : coreStep s = .next s := by
  unfold coreStep
  split <;> simp_all

/-- In PHASE = BUSY, at K = 0..10, the CORE takes the round step that DIR and K select (R82): it never stops. -/
theorem coreStep_runs {s : State} (h : s.phase = .busy) (hk : s.k.toNat < 11) :
    coreStep s = .next (roundStep s.readDir s.readSched ⟨s.k.toNat, hk⟩ s.readBlk s) := by
  simp [coreStep, h, hk]

/-- Likewise, with the three registers written. -/
theorem coreStep_busy {s : State} {d : Direction} {b : Block} {sc : Schedule} (h : s.phase = .busy)
    (hd : s.dir = some d) (hb : s.blk = some b) (hsc : s.sched = some sc) (hk : s.k.toNat < 11) :
    coreStep s = .next (roundStep d sc ⟨s.k.toNat, hk⟩ b s) := by
  rw [coreStep_runs h hk, State.readDir_written hd, State.readBlk_written hb, State.readSched_written hsc]

/-- What a CORE step that answers a next state can be: no step at all, or the round step at K. -/
theorem coreStep_next {s t : State} (h : coreStep s = .next t) :
    (s.phase ≠ .busy ∧ t = s) ∨
      (s.phase = .busy ∧ ∃ hk : s.k.toNat < 11,
        t = roundStep s.readDir s.readSched ⟨s.k.toNat, hk⟩ s.readBlk s) := by
  by_cases hp : s.phase = .busy
  · right
    refine ⟨hp, ?_⟩
    simp only [coreStep, hp] at h
    split at h
    · rename_i hk
      cases h
      exact ⟨hk, rfl⟩
    · cases h
  · rw [coreStep_not_busy hp] at h
    cases h
    exact .inl ⟨hp, rfl⟩

/-- Below K = 10 a round step advances K and writes BLK, and nothing else (R75, R76, R78, R79). -/
theorem roundStep_lt {r : Round} (h : r ≠ 10) (d : Direction) (sc : Schedule) (b : Block) (s : State) :
    roundStep d sc r b s = s.advance (roundBlock d sc r b) := by
  simp [roundStep, h]

/-- At K = 10 a round step completes the operation (R77, R80). -/
theorem roundStep_last (d : Direction) (sc : Schedule) (b : Block) (s : State) :
    roundStep d sc 10 b s = s.complete (roundBlock d sc 10 b) := rfl

/-- What `blockAtRound` is one round further on. -/
theorem blockAtRound_succ (d : Direction) (sc : Schedule) (input : Block) (r : Round) :
    blockAtRound d sc input (r.val + 1) = roundBlock d sc r (blockAtRound d sc input r.val) := by
  simp [blockAtRound, r.isLt]

/-- A step with rst = 1 is a Reset step, whatever start holds (R92, R93). -/
theorem drivePorts_reset {p : InPorts} (h : p.rst = true) (s : State) :
    drivePorts p s = .next s.resetStep := by
  simp [drivePorts, h]

/-- A step with start = 1 and rst = 0 presents the command on the ports (R43). -/
theorem drivePorts_start {p : InPorts} (hr : p.rst = false) (hs : p.start = true) (s : State) :
    drivePorts p s = exec (decodeFields p.mode p.key p.din) s := by
  simp [drivePorts, hr, hs]

/-- A step with start = 0 and rst = 0 changes nothing (R46). -/
theorem drivePorts_nop {p : InPorts} (hr : p.rst = false) (hs : p.start = false) (s : State) :
    drivePorts p s = .next s := by
  simp [drivePorts, hr, hs]

/-- A HOST step on the ports always answers a next state. -/
theorem drivePorts_next (p : InPorts) (s : State) : ∃ t, drivePorts p s = .next t := by
  unfold drivePorts
  split
  · exact ⟨_, rfl⟩
  · split
    · rw [exec_eq_presentCommand]
      rcases presentCommand_cases (acceptedEffect (decodeFields p.mode p.key p.din)) s with ⟨_, h⟩ | ⟨_, h⟩ <;>
        exact ⟨_, h⟩
    · exact ⟨_, rfl⟩

section Turns

variable {s : State} {rest : List Turn}

theorem step_empty (h : s.agenda = []) : step s = coreStep s := by
  simp [step, takeTurn, h]

theorem step_core (h : s.agenda = .core :: rest) : step s = coreStep (s.withAgenda rest) := by
  simp [step, takeTurn, h]

theorem step_drive {p : InPorts} (h : s.agenda = .drive p :: rest) :
    step s = drivePorts p (s.withAgenda rest) := by
  simp [step, takeTurn, h]

theorem step_wait_busy (h : s.agenda = .wait :: rest) (hb : s.busy = true) : step s = coreStep s := by
  simp [step, takeTurn, h, hb]

theorem step_wait_done (h : s.agenda = .wait :: rest) (hb : s.busy = false) :
    step s = .next (s.withAgenda rest) := by
  simp [step, takeTurn, h, hb]

/-- A Read with a value in DOUT sees it. -/
theorem hostRead_written {b : Block} (h : s.dout = some b) :
    hostRead s = .next (s.observe (.read (portOfBlock b) s.busy s.done s.err)) := by
  simp [hostRead, h]

/-- A Read with no value in DOUT records the fault of the read. -/
theorem hostRead_unwritten (h : s.dout = none) :
    hostRead s = .next (s.observe (.readUnwritten s.busy s.done s.err)) := by
  simp [hostRead, h]

theorem step_read (h : s.agenda = .read :: rest) : step s = hostRead (s.withAgenda rest) := by
  simp [step, takeTurn, h]

theorem step_status (h : s.agenda = .status :: rest) : step s = hostStatus (s.withAgenda rest) := by
  simp [step, takeTurn, h]

end Turns

/-- What a HOST step on the ports can do: a Reset step, nothing, or the effect of an accepted command. -/
theorem drivePorts_cases {p : InPorts} {s t : State} (h : drivePorts p s = .next t) :
    (p.rst = true ∧ t = s.resetStep) ∨ (p.rst = false ∧ t = s) ∨
      (p.rst = false ∧ p.start = true ∧ s.phase = .idle ∧
        t = acceptedEffect (decodeFields p.mode p.key p.din) s.clearDone) := by
  cases hr : p.rst with
  | true =>
    rw [drivePorts_reset hr] at h
    cases h
    exact .inl ⟨rfl, rfl⟩
  | false =>
    cases hs : p.start with
    | false =>
      rw [drivePorts_nop hr hs] at h
      cases h
      exact .inr (.inl ⟨rfl, rfl⟩)
    | true =>
      rw [drivePorts_start hr hs, exec_eq_presentCommand] at h
      rcases presentCommand_cases (acceptedEffect (decodeFields p.mode p.key p.din)) s with ⟨hp, e⟩ | ⟨_, e⟩
      · rw [e] at h
        cases h
        exact .inr (.inr ⟨rfl, rfl, hp, rfl⟩)
      · rw [e] at h
        cases h
        exact .inr (.inl ⟨rfl, rfl⟩)

/-- The parts of a round step: the completion at K = 10, and otherwise one round further on. -/
theorem roundStep_cases (d : Direction) (sc : Schedule) (r : Round) (b : Block) (s : State) :
    (r = 10 ∧ roundStep d sc r b s = s.complete (roundBlock d sc r b)) ∨
      (r ≠ 10 ∧ roundStep d sc r b s = s.advance (roundBlock d sc r b)) := by
  by_cases h : r = 10
  · exact .inl ⟨h, by simp [roundStep, h]⟩
  · exact .inr ⟨h, roundStep_lt h d sc b s⟩

/-- What a step that answers a next state is: a CORE step (the agenda kept, or its `core` turn gone), a HOST step on the
ports, or a turn that writes no register (the end of a wait, a Read, a Status). -/
theorem step_cases {s t : State} (h : step s = .next t) :
    (∃ ts, (ts = s.agenda ∨ ts = s.agenda.tail) ∧ coreStep (s.withAgenda ts) = .next t) ∨
      (∃ p rest, s.agenda = .drive p :: rest ∧ drivePorts p (s.withAgenda rest) = .next t) ∨
      t = { s with agenda := s.agenda.tail, observed := t.observed } := by
  rcases ha : s.agenda with _ | ⟨turn, rest⟩
  · rw [step_empty ha] at h
    exact .inl ⟨[], .inl rfl, by rw [← ha, State.withAgenda_self]; exact h⟩
  · cases turn with
    | core =>
      rw [step_core ha] at h
      exact .inl ⟨rest, .inr rfl, h⟩
    | drive p =>
      rw [step_drive ha] at h
      exact .inr (.inl ⟨p, rest, rfl, h⟩)
    | wait =>
      by_cases hb : s.busy = true
      · rw [step_wait_busy ha hb] at h
        exact .inl ⟨.wait :: rest, .inl rfl, by rw [← ha, State.withAgenda_self]; exact h⟩
      · rw [step_wait_done ha (by simpa using hb)] at h
        cases h
        exact .inr (.inr rfl)
    | read =>
      rw [step_read ha] at h
      unfold hostRead at h
      split at h <;>
        (cases h
         exact .inr (.inr rfl))
    | status =>
      rw [step_status ha] at h
      cases h
      exact .inr (.inr rfl)

/-- A run of `m + n` steps is a run of `m` and then a run of `n`. -/
theorem runSteps_add {m : Nat} {s t : State} (h : runSteps m s = .next t) (n : Nat) :
    runSteps (m + n) s = runSteps n t := by
  induction m generalizing s with
  | zero =>
    cases h
    rw [Nat.zero_add]
  | succ m ih =>
    rw [Nat.add_right_comm, runSteps]
    rw [runSteps] at h
    split at h
    · exact ih h
    · cases h
    · cases h

/-- A property that every step keeps is kept by every run. -/
theorem runSteps_keeps {P : State → Prop} (keep : ∀ s t, P s → step s = .next t → P t) {n : Nat} {s t : State}
    (hs : P s) (h : runSteps n s = .next t) : P t := by
  induction n generalizing s with
  | zero =>
    cases h
    exact hs
  | succ n ih =>
    rw [runSteps] at h
    split at h
    · rename_i u hu
      exact ih (keep s u hs hu) h
    · cases h
    · cases h

/-- The invariant relations are a property of the registers alone: the HOST's fields do not matter. -/
theorem State.Inv.withAgenda {s : State} (h : s.Inv) (ts : List Turn) : (s.withAgenda ts).Inv :=
  ⟨h.busy_iff, h.err_iff, h.done_idle, h.k_le, h.k_zero, h.dir_written, h.blk_written, h.sched_written,
    h.done_result⟩

/-- Likewise for `OnCourse`. -/
theorem State.OnCourse.withAgenda {d : Direction} {key din : Port} {s : State} (h : s.OnCourse d key din)
    (ts : List Turn) : (s.withAgenda ts).OnCourse d key din :=
  ⟨h.operation, h.result⟩

/-- A step that presents the command of direction d to an idle core accepts it. -/
theorem acceptedCommand_start {d : Direction} {key din : Port} {rest : List Turn} {s : State} (hp : s.phase = .idle)
    (ha : s.agenda = .drive (startPorts d.modeCode key din) :: rest) :
    s.acceptedCommand = some (d, key, din) := by
  cases d <;> simp [State.acceptedCommand, ha, hp, startPorts, Direction.modeCode, Config.modeEnc, Config.modeDec]

/-- What a step that accepts a valid command is: a HOST step with start = 1 on an idle core, and the accept step. -/
theorem acceptedCommand_cases {d : Direction} {key din : Port} {s : State}
    (h : s.acceptedCommand = some (d, key, din)) :
    s.phase = .idle ∧ ∃ (p : InPorts) (rest : List Turn), s.agenda = .drive p :: rest ∧ p.rst = false ∧
      p.start = true ∧ p.mode = d.modeCode ∧ p.key = key ∧ p.din = din ∧
      step s = .next ((s.withAgenda rest).clearDone.accept d key din) := by
  unfold State.acceptedCommand at h
  split at h
  · rename_i p rest ha hp
    have run (i : Instr) (hr : p.rst = false) (hs : p.start = true) (hi : decodeFields p.mode p.key p.din = i) :
        step s = .next (acceptedEffect i (s.withAgenda rest).clearDone) := by
      rw [step_drive ha, drivePorts_start hr hs, hi, exec_eq_presentCommand, presentCommand_idle (by simpa using hp)]
    split at h
    · cases h
    · rename_i hrs
      have hrs : p.rst = false ∧ p.start = true := by simpa using hrs
      split at h
      · rename_i hm
        cases h
        exact ⟨hp, p, rest, ha, hrs.1, hrs.2, hm, rfl, rfl,
          run (.enc p.key p.din) hrs.1 hrs.2 (by simp [decodeFields, hm])⟩
      · rename_i hne
        split at h
        · rename_i hm
          cases h
          exact ⟨hp, p, rest, ha, hrs.1, hrs.2, hm, rfl, rfl,
            run (.dec p.key p.din) hrs.1 hrs.2 (by simp [decodeFields, hm, Config.modeEnc, Config.modeDec])⟩
        · cases h
  · cases h

/-- A well-formed program without a schedule is its lines' turns and nothing between them (log 20). -/
theorem State.withProgram_wf {lines : List HostLine} (h : lines.all HostLine.wf = true) (s : State) :
    s.withProgram lines = some (s.withAgenda (lines.map lineTurn)) := by
  have turns : (lines.map fun l => (l, 0)).flatMap (fun l => lineTurn l.1 :: List.replicate l.2 .core) =
      lines.map lineTurn := by
    rw [List.flatMap_map, ← List.flatMap_singleton' (lines.map lineTurn), List.flatMap_map]
    rfl
  simp only [State.withProgram, State.withScheduledProgram, turns, List.all_map, Function.comp_def, h, if_true]

end Sys2Proof.Machine
end

