-- ==== Sys2Proof/Laws/PerInstr.lean ====
section
/-! SUPPORT. The per-instruction family ModeField: the mode bits of each command's word are the opcode table's match bits (spec/30_encoding.md R44). -/

namespace Sys2Proof.Laws.ModeField

/-- The two match bits of the instruction's row in spec/opcode_table.json, bits [257:256]. -/
def rowBits : Instr → BitVec 2
  | .enc _ _ => 0
  | .dec _ _ => 1
  | .invalidMode2 _ _ => 2
  | .invalidMode3 _ _ => 3

/-- The encoded word carries the row's match bits in its mode field. -/
def Statement (i : Instr) : Prop := commandMode (encode i).toNat = rowBits i

theorem enc (key din : Port) : Statement (.enc key din) := commandMode_commandOf _ _ _

theorem dec (key din : Port) : Statement (.dec key din) := commandMode_commandOf _ _ _

theorem invalidMode2 (key din : Port) : Statement (.invalidMode2 key din) := commandMode_commandOf _ _ _

theorem invalidMode3 (key din : Port) : Statement (.invalidMode3 key din) := commandMode_commandOf _ _ _

end Sys2Proof.Laws.ModeField
end

