-- ==== Sys2Proof/Tests/Slice0.lean ====
section
/-! SUPPORT. Tests: expected values from spec/95_test_vectors.md (the table is named at each test), the smoke tests of WellFormed, and for each obligation with hypotheses a witness that meets them. -/

namespace Sys2Proof.Tests

open Sys2Proof.Machine

/-- The known-answer vector S1: key, plaintext, ciphertext. -/
def katKey : Port := 0x000102030405060708090a0b0c0d0e0f

def katPlain : Port := 0x00112233445566778899aabbccddeeff

def katCipher : Port := 0x69c4e0d86a7b0430d8cdb78070b4c55a

/-- The schedule of the known-answer key. -/
def katSchedule : Schedule := keyExpansion (blockOfPort katKey)

/-- A word from its 4 bytes in hex, byte 0 first. -/
def hexWord (w : BitVec 32) : Word := Vector.ofFn fun j => w.extractLsb' (24 - 8 * j.val) 8

/-- The next state of an outcome. -/
def nextOf : Host.Outcome State Fault Refusal → Option State
  | .next s => some s
  | .fault _ => none
  | .refused _ => none

/-- The fault of an outcome. -/
def faultOf : Host.Outcome State Fault Refusal → Option Fault
  | .next _ => none
  | .fault f => some f
  | .refused _ => none

/-- An idle state with a result in DOUT and the given turns. -/
def idleDone (result : Port) (turns : List Turn) : State :=
  { State.reset with dout := some (blockOfPort result), blk := some (blockOfPort result), done := true, agenda := turns }

/-- A state in the middle of an operation under the known-answer key. -/
def midOperation (d : Direction) (blk : Port) (k : BitVec 4) (turns : List Turn) : State :=
  { State.reset with
    dir := some d, blk := some (blockOfPort blk), sched := some katSchedule, phase := .busy, busy := true, k := k
    agenda := turns }

/-- The state after an InvalidMode fault from reset, with the given turns. -/
def faulted (turns : List Turn) : State := (State.reset.withAgenda turns).raiseInvalidMode

/-! ### Encoding: the words of spec/95_test_vectors.md section 4, and spec/30_encoding.md R43, R44 -/

theorem test_decode_enc :
    decode 0x0000102030405060708090a0b0c0d0e0f00112233445566778899aabbccddeeff = .ok (.enc katKey katPlain) := by
  decide

theorem test_decode_dec :
    decode 0x1000102030405060708090a0b0c0d0e0f69c4e0d86a7b0430d8cdb78070b4c55a = .ok (.dec katKey katCipher) := by
  decide

theorem test_decode_invalidMode2 :
    decode 0x2000102030405060708090a0b0c0d0e0f00112233445566778899aabbccddeeff =
      .ok (.invalidMode2 katKey katPlain) := by
  decide

theorem test_decode_invalidMode3 :
    decode 0x3000102030405060708090a0b0c0d0e0f00112233445566778899aabbccddeeff =
      .ok (.invalidMode3 katKey katPlain) := by
  decide

theorem test_decode_refuses_bit_258 :
    decode 0x40000000000000000000000000000000000000000000000000000000000000000 = .error .bitsAboveCommandWord := by
  decide

theorem test_encode_dec :
    (encode (.dec 0x2b7e151628aed2a6abf7158809cf4f3c 0x3925841d02dc09fbdc118597196a0b32)).toNat =
      0x12b7e151628aed2a6abf7158809cf4f3c3925841d02dc09fbdc118597196a0b32 := by
  decide +kernel

theorem test_decodeListing_first_digit_is_mode :
    decodeListing (1 :: List.replicate 63 0 ++ [5]) = .ok (.dec 0 5) := by
  decide

theorem test_decodeListing_refuses_64_digits : decodeListing (List.replicate 64 0) = .error .listingLength := by
  decide

theorem test_decodeListing_refuses_digit_16 :
    decodeListing (List.replicate 64 0 ++ [16]) = .error .notAHexDigit := by
  decide

/-- The match values of the four rows of spec/opcode_table.json, 258 bits in 264. -/
theorem test_table_rows :
    decodeTableWord 264 0x00000000000000000000000000000000000000000000000000000000000000000 = some (.enc 0 0) ∧
    decodeTableWord 264 0x10000000000000000000000000000000000000000000000000000000000000000 = some (.dec 0 0) ∧
    decodeTableWord 264 0x20000000000000000000000000000000000000000000000000000000000000000 =
      some (.invalidMode2 0 0) ∧
    decodeTableWord 264 0x30000000000000000000000000000000000000000000000000000000000000000 =
      some (.invalidMode3 0 0) := by
  decide

/-! ### WellFormed: one ill-formed line for each check -/

theorem smoke_short_key_refused :
    (HostLine.enc (List.replicate 31 0) (List.replicate 32 0)).wf = false := by decide

theorem smoke_long_din_refused :
    (HostLine.dec (List.replicate 32 0) (List.replicate 33 0)).wf = false := by decide

theorem smoke_bad_digit_refused :
    (HostLine.cmd 2 (16 :: List.replicate 31 0) (List.replicate 32 0)).wf = false := by decide

theorem smoke_bad_din_digit_refused :
    (HostLine.enc (List.replicate 32 0) (List.replicate 31 0 ++ [99])).wf = false := by decide

theorem smoke_good_line_accepted :
    (HostLine.cmd 2 (List.replicate 32 15) (List.replicate 32 0)).wf = true := by decide

theorem smoke_program_with_a_bad_line_not_taken :
    (State.reset.withProgram [.reset, .enc [] [], .wait]).isNone = true := by decide

/-- Program P3's "3 CORE steps happen here": the agenda that a schedule gives. -/
theorem test_withScheduledProgram :
    (State.reset.withScheduledProgram [(.reset, 0), (.nop, 3), (.wait, 0)]).map (fun s => s.agenda) =
      some [.drive InPorts.reset, .drive InPorts.nop, .core, .core, .core, .wait] := by decide

/-! ### Transforms: tables T1 to T11 -/

/-- T1. -/
theorem test_xtime : xtime 0x57 = 0xae ∧ xtime 0xae = 0x47 ∧ xtime 0x80 = 0x1b ∧ xtime 0xff = 0xe5 := by decide

/-- T2, the rows of 57 and ff. -/
theorem test_multipliers :
    [mul1 0x57, mul2 0x57, mul3 0x57, mul9 0x57, mul11 0x57, mul13 0x57, mul14 0x57] =
      [0x57, 0xae, 0xf9, 0xd9, 0x77, 0x9e, 0x67] ∧
    [mul1 0xff, mul2 0xff, mul3 0xff, mul9 0xff, mul11 0xff, mul13 0xff, mul14 0xff] =
      [0xff, 0xe5, 0x1a, 0x46, 0xa3, 0x97, 0x8d] := by decide

/-- T3. -/
theorem test_tables :
    sbox 0x00 = 0x63 ∧ sbox 0x53 = 0xed ∧ sbox 0xff = 0x16 ∧ sbox 0x10 = 0xca ∧
    invSbox 0x00 = 0x52 ∧ invSbox 0x53 = 0x50 ∧ invSbox 0xff = 0x7d ∧ invSbox 0x10 = 0x7c := by decide

/-- T4. -/
theorem test_subBytes : subBytes (blockOfPort 0x000102030405060708090a0b0c0d0e0f) =
    blockOfPort 0x637c777bf26b6fc53001672bfed7ab76 := by decide +kernel

/-- T4. -/
theorem test_invSubBytes : invSubBytes (blockOfPort 0x63cab7040953d051cd60e0e7ba70e18c) =
    blockOfPort 0x00102030405060708090a0b0c0d0e0f0 := by decide +kernel

/-- T5. -/
theorem test_shiftRows : shiftRows (blockOfPort 0x000102030405060708090a0b0c0d0e0f) =
    blockOfPort 0x00050a0f04090e03080d02070c01060b := by decide +kernel

/-- T5. -/
theorem test_invShiftRows : invShiftRows (blockOfPort 0x000102030405060708090a0b0c0d0e0f) =
    blockOfPort 0x000d0a0704010e0b0805020f0c090603 := by decide +kernel

/-- T6. -/
theorem test_mixColumn : mixColumn (hexWord 0xdb135345) = hexWord 0x8e4da1bc ∧
    mixColumn (hexWord 0x00010000) = hexWord 0x03020101 := by decide +kernel

/-- T6. -/
theorem test_invMixColumn : invMixColumn (hexWord 0x2d26314c) = hexWord 0xa05050d6 ∧
    invMixColumn (hexWord 0x00010000) = hexWord 0x0b0e090d := by decide +kernel

/-- T7. -/
theorem test_mixColumns : mixColumns (blockOfPort 0x6353e08c0960e104cd70b751bacad0e7) =
    blockOfPort 0x5f72641557f5bc92f7be3b291db9f91a := by decide +kernel

/-- T8. -/
theorem test_addRoundKey : addRoundKey (blockOfPort katPlain) (blockOfPort katKey) =
    blockOfPort 0x00102030405060708090a0b0c0d0e0f0 := by decide +kernel

/-- T10. -/
theorem test_key_schedule_words :
    rotWord (hexWord 0x09cf4f3c) = hexWord 0xcf4f3c09 ∧ subWord (hexWord 0xcf4f3c09) = hexWord 0x8a84eb01 ∧
    xorRcon (hexWord 0x8a84eb01) 1 = hexWord 0x8b84eb01 ∧
    xorWord (hexWord 0x8b84eb01) (hexWord 0x2b7e1516) = hexWord 0xa0fafe17 := by decide +kernel

/-- T11, the last round key. -/
theorem test_last_round_key : portOfBlock (roundKey katSchedule 10) = 0x13111d7fe3944a17f307a78b4d2b30c5 := by
  decide +kernel

/-- S1, the known-answer vector. -/
theorem test_kat_encrypt : portOfBlock (encrypt (blockOfPort katKey) (blockOfPort katPlain)) = katCipher := by
  decide +kernel

/-- S2. -/
theorem test_kat_decrypt : portOfBlock (decrypt (blockOfPort katKey) (blockOfPort katCipher)) = katPlain := by
  decide +kernel

/-! ### Steps: section 3 (C1 to C6) and the round steps of T15 and T16 -/

/-- C1. -/
theorem test_enc_accepted :
    (nextOf (exec (.enc katKey katPlain) State.reset)).map (fun s => (s.phase, s.statusVector, s.k, s.dir)) =
      some (.busy, 0b001, 0, some .forward) := by decide

/-- C2. -/
theorem test_dec_accepted :
    (nextOf (exec (.dec katKey katCipher) State.reset)).map (fun s => (s.dir, s.blk)) =
      some (some .inverse, some (blockOfPort katCipher)) := by decide +kernel

/-- C3, from a state with DONE = 1: DONE is cleared and DOUT kept (program P2, row 16). -/
theorem test_invalidMode2 :
    (nextOf (exec (.invalidMode2 katKey katPlain) (idleDone katCipher []))).map
        (fun s => (s.phase, s.statusVector, s.dout)) =
      some (.fault, 0b100, some (blockOfPort katCipher)) := by decide +kernel

/-- C4. -/
theorem test_invalidMode3 :
    (nextOf (exec (.invalidMode3 0 0) State.reset)).map (fun s => (s.phase, s.statusVector)) =
      some (.fault, 0b100) := by decide

/-- C6. -/
theorem test_reset_beats_start :
    nextOf (step ((faulted []).withAgenda [.drive ⟨true, true, 0, katKey, katPlain⟩])) = some State.reset := by
  decide +kernel

/-- T15, K = 1. -/
theorem test_enc_round_one :
    (nextOf (step (midOperation .forward 0x00102030405060708090a0b0c0d0e0f0 1 [.core]))).map (fun s => (s.blk, s.k)) =
      some (some (blockOfPort 0x89d810e8855ace682d1843d8cb128fe4), 2) := by decide +kernel

/-- T15, K = 10. -/
theorem test_enc_final_round :
    (nextOf (step (midOperation .forward 0xbd6e7c3df2b5779e0b61216e8b10b689 10 []))).map
        (fun s => (s.dout, s.phase, s.statusVector, s.k)) =
      some (some (blockOfPort katCipher), .idle, 0b010, 0) := by decide +kernel

/-- T17. -/
theorem test_dec_round_one :
    (nextOf (step (midOperation .inverse 0x7ad5fda789ef4e272bca100b3d9ff59f 1 [.wait]))).map
        (fun s => (s.blk, s.k, s.agenda)) =
      some (some (blockOfPort 0x54d990a16ba09ab596bbf40ea111702f), 2, [.wait]) := by decide +kernel

/-- T16, K = 10. -/
theorem test_dec_final_round :
    (nextOf (step (midOperation .inverse 0x6353e08c0960e104cd70b751bacad0e7 10 []))).map (fun s => s.dout) =
      some (some (blockOfPort katPlain)) := by decide +kernel

/-- No stop for want of a value: a CORE step in PHASE = BUSY with nothing written goes on to K = 1, and writes BLK. -/
theorem test_core_step_unwritten :
    (nextOf (coreStep { State.reset with phase := .busy, busy := true })).map
        (fun s => (s.phase, s.k, s.blk.isSome, s.sched, s.dir, s.dout)) =
      some (.busy, 1, true, none, none, none) := rfl

/-- Program P1, row 16. -/
theorem test_read :
    (nextOf (step (idleDone katCipher [.read]))).map (fun s => s.observed) =
      some [.read katCipher false true false] := by decide +kernel

/-- Section 4, P2: "A `READ` placed right after the second `RESET` would be a ReadUnwritten fault": it is recorded, and
the run is not safe. -/
theorem test_read_unwritten :
    (nextOf (step (State.reset.withAgenda [.read]))).map (fun s => (s.observed, s.safe)) =
      some ([.readUnwritten false false false], false) := by decide

/-- R14: no round step is at K = 11. -/
theorem test_no_round_step : faultOf (coreStep (midOperation .forward katPlain 11 [])) = some .noRoundStep := by
  decide

/-- The placed word is the first instruction after reset. -/
theorem test_withFetchWord :
    (nextOf (step (State.reset.withFetchWord 264
        0x20000000000000000000000000000000000000000000000000000000000000000))).map (fun s => s.phase) =
      some .fault := by decide

/-! ### Witnesses: for each obligation with hypotheses, states and operands that meet them, clause by clause -/

theorem witness_DecodeOfEncodeIsTheCommand : (Instr.invalidMode3 katKey katPlain).wf = true := rfl

/-- The two ends of the command words, and the first number that is none. -/
theorem witness_EveryCommandWordHasOneMeaning :
    0 < 2 ^ 258 ∧ 2 ^ 258 - 1 < 2 ^ 258 ∧ 2 ^ 258 ≤ 2 ^ 258 := by norm_num

/-- The four mode values at words of the table. -/
theorem witness_DecoderReadsModeKeyAndDinByPosition :
    (Nat.testBit 0x0 257 = false ∧ Nat.testBit 0x0 256 = false) ∧
    (Nat.testBit 0x10000000000000000000000000000000000000000000000000000000000000000 257 = false ∧
      Nat.testBit 0x10000000000000000000000000000000000000000000000000000000000000000 256 = true) ∧
    (Nat.testBit 0x20000000000000000000000000000000000000000000000000000000000000000 257 = true ∧
      Nat.testBit 0x20000000000000000000000000000000000000000000000000000000000000000 256 = false) ∧
    (Nat.testBit 0x30000000000000000000000000000000000000000000000000000000000000000 257 = true ∧
      Nat.testBit 0x30000000000000000000000000000000000000000000000000000000000000000 256 = true) := by
  decide +kernel

/-- Byte 0 and byte 15 of the known-answer key, at bit 0 and bit 7 of the byte. -/
theorem witness_PortByteOrderIsBigEndianBothWays :
    (blockOfPort katKey)[0] = 0x00 ∧ (blockOfPort katKey)[15] = 0x0f ∧ (0 : Nat) < 8 ∧ 7 < 8 := by decide

theorem witness_HexOperandListsByteZeroFirst :
    hexOperandWf (List.replicate 31 0 ++ [15]) = true ∧ (0 : Nat) < 16 ∧ 15 < 16 := by decide

/-- The ends of each clause's range: words 0 and 3; 5 and 43; 4 and 40; bytes 0 and 3; RCON entries 1 and 9. -/
theorem witness_KeyExpansionSatisfiesTheRecurrence :
    (0 < 4 ∧ 3 < 4) ∧ (4 ≤ 5 ∧ 5 < 44 ∧ 5 % 4 ≠ 0 ∧ 43 < 44 ∧ 43 % 4 ≠ 0) ∧
      (4 ≤ 4 ∧ 4 < 44 ∧ 4 % 4 = 0 ∧ 40 < 44 ∧ 40 % 4 = 0) ∧ (1 ≤ 1 ∧ 1 < 10 ∧ 9 < 10) := by decide

theorem witness_idle_states :
    State.reset.phase = .idle ∧ (idleDone katCipher []).phase = .idle := ⟨rfl, rfl⟩

theorem witness_SboxEntriesAreAffineOfFieldInverse : (1 : Byte) ≠ 0 ∧ (0xff : Byte) ≠ 0 := by decide

/-- For AcceptStepCapturesTheCommand and ScheduleDependsOnTheKeyAlone: two different idle states. -/
theorem witness_AcceptStepCapturesTheCommand :
    State.reset.phase = .idle ∧ (idleDone katCipher []).phase = .idle ∧ State.reset ≠ idleDone katCipher [] := by
  decide +kernel

/-- ERR rises and PHASE becomes FAULT in a step that presents mode 0b10, and so for 0b11. -/
theorem witness_InvalidModeIsPreciseAndRaisedOnlyByAnIllegalMode :
    (∃ t, step (State.reset.withAgenda [.drive (startPorts 2 katKey katPlain)]) = .next t ∧
      t.err = true ∧ t.phase = .fault) ∧
    ∃ t, step (State.reset.withAgenda [.drive (startPorts 3 katKey katPlain)]) = .next t ∧
      t.err = true ∧ t.phase = .fault := ⟨⟨_, rfl, rfl, rfl⟩, ⟨_, rfl, rfl, rfl⟩⟩

theorem witness_CommandsAreIgnoredWhileBusyOrFaulted :
    (midOperation .forward katPlain 0 [.drive ⟨false, true, 1, 0, 0⟩]).phase = .busy ∧
    (midOperation .forward katPlain 0 [.drive ⟨false, true, 1, 0, 0⟩]).agenda = .drive ⟨false, true, 1, 0, 0⟩ :: [] ∧
    (faulted [.drive ⟨false, true, 2, 0, 0⟩]).phase = .fault ∧
    (faulted [.drive ⟨false, true, 2, 0, 0⟩]).agenda = .drive ⟨false, true, 2, 0, 0⟩ :: [] := ⟨rfl, rfl, rfl, rfl⟩

theorem witness_SecondCommandWithoutWaitingIsLost :
    ∃ s : State, s.phase = .idle ∧ s.agenda = .drive (startPorts (Instr.enc 0 1).mode 0 1) ::
      .drive (startPorts (Instr.invalidMode2 2 3).mode 2 3) :: [] :=
  ⟨State.reset.withAgenda [.drive (startPorts 0 0 1), .drive (startPorts 2 2 3)], rfl, rfl⟩

/-- Both clauses: ports whose word decodes, and a table word that decodes. -/
theorem witness_StepRunsTheDecodedCommand :
    (∃ s : State, s.agenda = .drive (startPorts 1 katKey katCipher) :: [] ∧
      (startPorts 1 katKey katCipher).rst = false ∧ (startPorts 1 katKey katCipher).start = true ∧
      decode (commandOf 1 katKey katCipher).toNat = .ok (.dec katKey katCipher)) ∧
    decodeTableWord 264 0x10000000000000000000000000000000000000000000000000000000000000000 = some (.dec 0 0) :=
  ⟨⟨State.reset.withAgenda [.drive (startPorts 1 katKey katCipher)], rfl, rfl, rfl, by decide +kernel⟩, by decide⟩

/-- In each phase, with start = 1 and with start = 0. -/
theorem witness_ResetStepBeatsEverything :
    (midOperation .inverse katCipher 7 [.drive ⟨true, true, 3, 0, 0⟩]).agenda = .drive ⟨true, true, 3, 0, 0⟩ :: [] ∧
    (faulted [.drive InPorts.reset]).agenda = .drive InPorts.reset :: [] ∧ InPorts.reset.rst = true ∧
    InPorts.reset.start = false := ⟨rfl, rfl, rfl, rfl⟩

theorem witness_StepWithoutStartPresentsNoCommand :
    (State.reset.withAgenda [.drive ⟨false, false, 2, katKey, katPlain⟩]).agenda =
      .drive ⟨false, false, 2, katKey, katPlain⟩ :: [] ∧ InPorts.nop.rst = false ∧ InPorts.nop.start = false :=
  ⟨rfl, rfl, rfl⟩

/-- A Read with a value in DOUT, a Read without one, a Status. -/
theorem witness_HostReadsShowTheOutputs :
    ((idleDone katCipher [.read]).agenda = .read :: [] ∧ (idleDone katCipher [.read]).dout = some (blockOfPort katCipher)) ∧
    ((faulted [.read]).agenda = .read :: [] ∧ (faulted [.read]).dout = none) ∧
    (faulted [.status]).agenda = .status :: [] := ⟨⟨rfl, rfl⟩, ⟨rfl, rfl⟩, rfl⟩

theorem midOperation_inv (d : Direction) (blk : Port) (k : BitVec 4) (hk : k.toNat ≤ 10) (turns : List Turn) :
    (midOperation d blk k turns).Inv := by
  constructor <;> simp [midOperation, State.reset, hk]

theorem idleDone_inv (result : Port) (turns : List Turn) : (idleDone result turns).Inv := by
  constructor <;> simp [idleDone, State.reset]

theorem faulted_inv (turns : List Turn) : (faulted turns).Inv := by
  constructor <;> simp [faulted, State.reset]

/-- For every statement under the invariant: states of every phase that have it, K at both ends of its range. -/
theorem witness_UnwrittenRegistersAreNeverReadByTheCore :
    (midOperation .forward katPlain 0 []).Inv ∧ (midOperation .inverse katCipher 10 [.core]).Inv ∧
    (idleDone katCipher []).Inv ∧ (faulted []).Inv ∧ State.reset.dout = none ∧
    (midOperation .forward katPlain 0 []).phase = .busy ∧ (midOperation .inverse katCipher 10 [.core]).phase = .busy ∧
    ({ State.reset with phase := .busy, k := 10 } : State).phase = .busy :=
  ⟨midOperation_inv _ _ _ (by decide) _, midOperation_inv _ _ _ (by decide) _, idleDone_inv _ _, faulted_inv _, rfl,
    rfl, rfl, rfl⟩

theorem witness_TurnsOfTheCore :
    (midOperation .forward katPlain 0 [.core]).agenda = .core :: [] ∧ State.reset.agenda = [] ∧
    ((midOperation .forward katPlain 0 [.wait]).agenda = .wait :: [] ∧
      (midOperation .forward katPlain 0 [.wait]).busy = true) ∧
    ((idleDone katCipher [.wait]).agenda = .wait :: [] ∧ (idleDone katCipher [.wait]).busy = false) :=
  ⟨rfl, rfl, ⟨rfl, rfl⟩, ⟨rfl, rfl⟩⟩

/-- For EncRoundStepZero, EncFullRoundStep (K = 1 and K = 9) and EncFinalRoundStep. -/
theorem witness_EncRoundSteps : ∀ k : BitVec 4, k = 0 ∨ k = 1 ∨ k = 9 ∨ k = 10 →
    ∃ s : State, s.phase = .busy ∧ s.dir = some .forward ∧ s.blk = some (blockOfPort katPlain) ∧
      s.sched = some katSchedule ∧ s.k = k ∧ (1 : Round).val = 1 ∧ (9 : Round).val = 9 :=
  fun k _ => ⟨midOperation .forward katPlain k [], rfl, rfl, rfl, rfl, rfl, rfl, rfl⟩

/-- For DecRoundStepZero, DecFullRoundStep and DecFullRoundStepHasTheStandardOrder (K = 1, r = 9 and K = 9, r = 1),
DecFinalRoundStep. -/
theorem witness_DecRoundSteps : ∀ k : BitVec 4, k = 0 ∨ k = 1 ∨ k = 9 ∨ k = 10 →
    ∃ s : State, s.phase = .busy ∧ s.dir = some .inverse ∧ s.blk = some (blockOfPort katCipher) ∧
      s.sched = some katSchedule ∧ s.k = k ∧ (1 : BitVec 4).toNat + (9 : Round).val = 10 ∧
      (9 : BitVec 4).toNat + (1 : Round).val = 10 :=
  fun k _ => ⟨midOperation .inverse katCipher k [], rfl, rfl, rfl, rfl, rfl, rfl, rfl⟩

theorem witness_CoreHasNoStepOutsideBusy : State.reset.phase = .idle ∧ (faulted []).phase = .fault := ⟨rfl, rfl⟩

/-- A CORE step, an accepted command and a Read, each from a state of the invariant. -/
theorem witness_StepKeepsTheControlInvariant :
    (∃ t, (midOperation .forward katPlain 10 []).Inv ∧ step (midOperation .forward katPlain 10 []) = .next t) ∧
    (∃ t, (idleDone katCipher [.drive (startPorts 2 0 0)]).Inv ∧
      step (idleDone katCipher [.drive (startPorts 2 0 0)]) = .next t) ∧
    ∃ t, (idleDone katCipher [.read]).Inv ∧ step (idleDone katCipher [.read]) = .next t :=
  ⟨⟨_, midOperation_inv _ _ _ (by decide) _, rfl⟩, ⟨_, idleDone_inv _ _, rfl⟩, ⟨_, idleDone_inv _ _, rfl⟩⟩

/-- An operation at its entry is on course and steps; at K = 10 (T15) it is and completes; its result is still there at
a later Read; both directions are accepted. -/
theorem witness_StepKeepsTheOperationOnCourse :
    (∃ t, (midOperation .forward katPlain 0 []).OnCourse .forward katKey katPlain ∧
      step (midOperation .forward katPlain 0 []) = .next t) ∧
    (∃ t, (midOperation .forward 0xbd6e7c3df2b5779e0b61216e8b10b689 10 []).OnCourse .forward katKey katPlain ∧
      step (midOperation .forward 0xbd6e7c3df2b5779e0b61216e8b10b689 10 []) = .next t) ∧
    (∃ t, (idleDone katCipher [.read]).OnCourse .forward katKey katPlain ∧
      (idleDone katCipher [.read]).done = true ∧ (idleDone katCipher [.read]).acceptedCommand = none ∧
      step (idleDone katCipher [.read]) = .next t) ∧
    (State.reset.withAgenda [.drive (startPorts 0 katKey katPlain)]).acceptedCommand =
      some (.forward, katKey, katPlain) ∧
    (State.reset.withAgenda [.drive (startPorts 1 katKey katCipher)]).acceptedCommand =
      some (.inverse, katKey, katCipher) :=
  ⟨⟨_, ⟨fun _ => ⟨rfl, rfl, rfl⟩, fun h => nomatch h⟩, rfl⟩,
   ⟨_, ⟨fun _ => ⟨rfl, rfl, by decide +kernel⟩, fun h => nomatch h⟩, rfl⟩,
   ⟨_, ⟨fun h => (nomatch h), fun _ => by decide +kernel⟩, rfl, rfl, rfl⟩, by decide, by decide⟩

/-- Each legal value of the status vector belongs to a state of the invariant. -/
theorem witness_StatusVectorIsLegal :
    State.reset.statusVector = 0b000 ∧ (idleDone katCipher []).statusVector = 0b010 ∧
    (midOperation .forward katPlain 0 []).statusVector = 0b001 ∧ (faulted []).statusVector = 0b100 :=
  ⟨rfl, rfl, rfl, rfl⟩

/-- DOUT changes at K = 10, and in a Reset step. -/
theorem witness_DoutChangesOnlyAtCompletionOrReset :
    (∃ t, step (midOperation .forward katPlain 10 []) = .next t ∧ t.dout.isSome = true) ∧
    ∃ t, step (idleDone katCipher [.drive InPorts.reset]) = .next t ∧ t.dout = none := ⟨⟨_, rfl, rfl⟩, ⟨_, rfl, rfl⟩⟩

/-- SCHED changes when a command is accepted, and in a Reset step. -/
theorem witness_ScheduleChangesOnlyWhenACommandIsAccepted :
    (∃ t, step (State.reset.withAgenda [.drive (startPorts 1 katKey katPlain)]) = .next t ∧
      t.sched.isSome ≠ State.reset.sched.isSome) ∧
    ∃ t, step (midOperation .forward katPlain 3 [.drive InPorts.reset]) = .next t ∧ t.sched.isSome ≠
      (midOperation .forward katPlain 3 []).sched.isSome :=
  ⟨⟨_, rfl, by decide⟩, ⟨_, rfl, by decide⟩⟩

/-- DIR changes when ENC and when DEC is accepted, and in a Reset step. -/
theorem witness_DirectionChangesOnlyWhenACommandIsAccepted :
    (∃ t, step (State.reset.withAgenda [.drive (startPorts 0 katKey katPlain)]) = .next t ∧ t.dir ≠ State.reset.dir) ∧
    (∃ t, step (State.reset.withAgenda [.drive (startPorts 1 katKey katPlain)]) = .next t ∧ t.dir ≠ State.reset.dir) ∧
    ∃ t, step (midOperation .forward katPlain 3 [.drive InPorts.reset]) = .next t ∧
      t.dir ≠ (midOperation .forward katPlain 3 []).dir :=
  ⟨⟨_, rfl, by decide⟩, ⟨_, rfl, by decide⟩, ⟨_, rfl, by decide⟩⟩

/-- A Read with no value in DOUT, under the invariant: the recorded side; a Status: the other. -/
theorem witness_NoStepStopsUnderTheInvariant :
    ((faulted [.read]).Inv ∧ (faulted [.read]).dout = none ∧ (faulted [.read]).agenda = .read :: []) ∧
    (faulted [.status]).Inv := ⟨⟨faulted_inv _, rfl, rfl⟩, faulted_inv _⟩

/-- In PHASE = FAULT: an ignored command, a Status, a Reset. -/
theorem witness_FaultIsLeftOnlyByReset :
    (faulted []).phase = .fault ∧ (∃ t, step (faulted [.drive (startPorts 0 0 0)]) = .next t) ∧
    (∃ t, step (faulted [.status]) = .next t) ∧ ∃ t, step (faulted [.drive InPorts.reset]) = .next t :=
  ⟨rfl, ⟨_, rfl⟩, ⟨_, rfl⟩, ⟨_, rfl⟩⟩

/-- A command's word presented to an idle core, then a wait: for EncCommandCompletesWithTheCiphertext and
DecCommandCompletesWithThePlaintext. -/
theorem witness_CommandCompletes :
    (∃ s : State, s.phase = .idle ∧
      s.agenda = .drive (InPorts.ofWord (encode (.enc katKey katPlain)).toNat) :: .wait :: []) ∧
    ∃ s : State, s.phase = .idle ∧
      s.agenda = .drive (InPorts.ofWord (encode (.dec katKey katCipher)).toNat) :: .wait :: [.read] :=
  ⟨⟨State.reset.withAgenda (.drive (InPorts.ofWord (encode (.enc katKey katPlain)).toNat) :: .wait :: []), rfl, rfl⟩,
   ⟨(idleDone katCipher []).withAgenda (.drive (InPorts.ofWord (encode (.dec katKey katCipher)).toNat) ::
      .wait :: [.read]), rfl, rfl⟩⟩

/-- Ten CORE steps, HOST steps before them. -/
def tenCoreSteps : List Turn := .status :: .drive (startPorts 2 0 0) :: .read :: List.replicate 10 .core

/-- Ten CORE steps with HOST steps among them (the first clause at its boundary), and eleven (the second). -/
theorem witness_OperationCompletesAfterElevenCoreSteps :
    (tenCoreSteps.all Turn.keepsOperation = true ∧ tenCoreSteps.count .core ≤ 10) ∧
    ((tenCoreSteps ++ [Turn.core]).all Turn.keepsOperation = true ∧ (tenCoreSteps ++ [Turn.core]).count .core = 11) ∧
    ∃ s : State, s.phase = .idle ∧ s.agenda = .drive (startPorts (Direction.modeCode .inverse) katKey katCipher) ::
      (tenCoreSteps ++ []) :=
  ⟨by decide, by decide, idleDone katCipher (.drive (startPorts 1 katKey katCipher) :: tenCoreSteps), rfl, rfl⟩

/-- Two states that differ in key schedule and block only, with commands that differ in key and din only. -/
theorem witness_ControlNeverDependsOnKeyOrBlock :
    ∃ s s' t : State, s.blk ≠ s'.blk ∧ s.control = s'.control ∧
      s.agenda.map Turn.withoutData = s'.agenda.map Turn.withoutData ∧ step s = .next t :=
  ⟨midOperation .forward katPlain 4 [.core, .drive (startPorts 0 katKey 0)],
   midOperation .forward katCipher 4 [.core, .drive (startPorts 0 0 katPlain)], _, by decide +kernel, rfl, rfl, rfl⟩

/-- For ENC and for DEC: two different idle states, given the same command. -/
theorem witness_OperationsAreIndependent :
    (∃ s s' : State, s ≠ s' ∧ s.phase = .idle ∧ s'.phase = .idle ∧
      s.agenda = .drive (startPorts (Instr.enc katKey katPlain).mode katKey katPlain) :: .wait :: [] ∧
      s'.agenda = s.agenda) ∧
    ∃ s s' : State, s ≠ s' ∧ s.phase = .idle ∧ s'.phase = .idle ∧
      s.agenda = .drive (startPorts (Instr.dec katKey katCipher).mode katKey katCipher) :: .wait :: [] ∧
      s'.agenda = s.agenda :=
  ⟨⟨State.reset.withAgenda [.drive (startPorts 0 katKey katPlain), .wait],
    idleDone katCipher [.drive (startPorts 0 katKey katPlain), .wait], by decide +kernel, rfl, rfl, rfl, rfl⟩,
   State.reset.withAgenda [.drive (startPorts 1 katKey katCipher), .wait],
   idleDone katCipher [.drive (startPorts 1 katKey katCipher), .wait], by decide +kernel, rfl, rfl, rfl, rfl⟩

end Sys2Proof.Tests
end

section
/-! PROOFS. The byte order of the ports (spec/20_memory.md R30), settling O6: each mapping bit by bit, then the two round trips from the bits. -/

namespace Sys2Proof.Machine

theorem portByte_getLsbD (p : Port) (n : Fin 16) {j : Nat} (hj : j < 8) :
    (portByte p n).getLsbD j = p.getLsbD (120 - 8 * n.val + j) := by
  simp [portByte, hj]

/-- The bytes `f 0` to `f k` appended in order, `f 0` most significant: the shape of `portOfBlock` for any number of bytes. -/
def appendBytes (f : Nat → Byte) : (k : Nat) → BitVec (8 * k + 8)
  | 0 => f 0
  | k + 1 => appendBytes f k ++ f (k + 1)

theorem portOfBlock_eq_appendBytes (b : Block) : portOfBlock b = appendBytes (b.getD · 0) 15 := by
  simp [portOfBlock, appendBytes, Vector.getD]

theorem appendBytes_succ_getLsbD (f : Nat → Byte) (k i : Nat) :
    (appendBytes f (k + 1)).getLsbD i =
      if i < 8 then (f (k + 1)).getLsbD i else (appendBytes f k).getLsbD (i - 8) :=
  BitVec.getLsbD_append

/-- By induction on the bytes appended: the last byte holds the low 8 bits and moves the earlier ones up by 8. -/
theorem appendBytes_getLsbD (f : Nat → Byte) {j : Nat} (hj : j < 8) (k n : Nat) (hn : n ≤ k) :
    (appendBytes f k).getLsbD (8 * (k - n) + j) = (f n).getLsbD j := by
  induction k with
  | zero =>
    obtain rfl : n = 0 := by omega
    simp [appendBytes]
  | succ k ih =>
    rw [appendBytes_succ_getLsbD]
    obtain rfl | hlt : n = k + 1 ∨ n ≤ k := by omega
    · simp [hj]
    · have hpos : 8 * (k + 1 - n) + j - 8 = 8 * (k - n) + j := by omega
      rw [if_neg (by omega), hpos, ih hlt]

theorem portOfBlock_getLsbD (b : Block) (n : Nat) (hn : n < 16) {j : Nat} (hj : j < 8) :
    (portOfBlock b).getLsbD (120 - 8 * n + j) = b[n].getLsbD j := by
  have hpos : 120 - 8 * n + j = 8 * (15 - n) + j := by omega
  rw [portOfBlock_eq_appendBytes, hpos, appendBytes_getLsbD _ hj 15 n (by omega)]
  simp [Vector.getD, hn]

/-- Every bit position of a port is bit `i % 8` of byte `15 - i / 8`. -/
theorem eq_byteBit_of_lt {i : Nat} (hi : i < 128) : i = 120 - 8 * (15 - i / 8) + i % 8 := by
  omega

@[simp] theorem blockOfPort_portOfBlock (b : Block) : blockOfPort (portOfBlock b) = b := by
  ext n hn j hj
  rw [blockOfPort_getElem, ← BitVec.getLsbD_eq_getElem, portByte_getLsbD _ _ hj, portOfBlock_getLsbD b n hn hj,
    BitVec.getLsbD_eq_getElem]

@[simp] theorem portOfBlock_blockOfPort (p : Port) : portOfBlock (blockOfPort p) = p := by
  refine BitVec.eq_of_getLsbD_eq fun i hi => ?_
  have hj : i % 8 < 8 := Nat.mod_lt i (by decide)
  rw [eq_byteBit_of_lt hi, portOfBlock_getLsbD _ _ (by omega) hj, blockOfPort_getElem, portByte_getLsbD _ _ hj]

/-- Settles O6: the two bit-by-bit laws of R30 and the round trips that follow from them. -/
theorem portByteOrderIsBigEndianBothWays : Obligations.PortByteOrderIsBigEndianBothWays := by
  refine ⟨fun p n hn j hj => ?_, fun b n hn _ hj => portOfBlock_getLsbD b n hn hj, portOfBlock_blockOfPort,
    blockOfPort_portOfBlock⟩
  rw [blockOfPort_getElem, portByte_getLsbD p ⟨n, hn⟩ hj]

end Sys2Proof.Machine
end

section
/-! PROOFS. The key schedule (spec/41_keyschedule.md R49, R53, R55), settling O8 and O10: the loop's recurrence on the list of words, carried over to the words of SCHED; and the SCHED an accepted command writes. -/

namespace Sys2Proof.Machine

/-- The four words the loop of KeyExpansion starts from and the `n` words it computes from them, in order: one list on
which R53's recurrence holds from position 4 on. -/
def wordsFrom (n i : Nat) (w4 w3 w2 w1 : Word) : List Word :=
  w4 :: w3 :: w2 :: w1 :: expansionLoop n i w4 w3 w2 w1

@[simp] theorem wordsFrom_length (n i : Nat) (w4 w3 w2 w1 : Word) : (wordsFrom n i w4 w3 w2 w1).length = n + 4 := by
  simp [wordsFrom, expansionLoop_length]

/-- One round of the loop moves the four words on by one. -/
theorem wordsFrom_succ (n i : Nat) (w4 w3 w2 w1 : Word) :
    wordsFrom (n + 1) i w4 w3 w2 w1 =
      w4 :: wordsFrom n (i + 1) w3 w2 w1 (xorWord w4 (expansionTemp i w1)) := rfl

theorem expandedWords_eq_wordsFrom (key : Block) :
    expandedWords key = wordsFrom 40 4 (column key 0) (column key 1) (column key 2) (column key 3) := rfl

/-- R53's loop body, for every word the loop computes: by induction on its position. -/
theorem wordsFrom_recurrence {n m : Nat} (hm : m < n) (i : Nat) (w4 w3 w2 w1 : Word) :
    (wordsFrom n i w4 w3 w2 w1)[m + 4]'(by simp [hm]) =
      xorWord ((wordsFrom n i w4 w3 w2 w1)[m]'(by simp; omega))
        (expansionTemp (i + m) ((wordsFrom n i w4 w3 w2 w1)[m + 3]'(by simp; omega))) := by
  induction m generalizing n i w4 w3 w2 w1 with
  | zero =>
    obtain ⟨n, rfl⟩ := Nat.exists_eq_add_one.mpr hm
    rfl
  | succ m ih =>
    obtain ⟨n, rfl⟩ := Nat.exists_eq_add_one.mpr (Nat.zero_lt_of_lt hm)
    have hi : i + (m + 1) = i + 1 + m := by omega
    simpa only [wordsFrom_succ, hi, Nat.add_right_comm m 1, List.getElem_cons_succ] using
      ih (Nat.lt_of_succ_lt_succ hm) (i + 1) w3 w2 w1 _

theorem scheduleWord_keyExpansion (key : Block) (i : Fin 44) :
    scheduleWord (keyExpansion key) i = (expandedWords key)[i.val]'(by simp [expandedWords_length]) := by
  ext j hj : 1
  have hdiv : (4 * i.val + j) / 4 = i.val := by omega
  have hmod : (4 * i.val + j) % 4 = j := by omega
  simp [scheduleWord_getElem, keyExpansion, hdiv, hmod]

/-- The first four words of the schedule are the key's. -/
theorem scheduleWord_keyExpansion_key (key : Block) (c : Fin 4) :
    scheduleWord (keyExpansion key) ⟨c.val, by omega⟩ = column key c := by
  rw [scheduleWord_keyExpansion]
  fin_cases c <;> rfl

/-- R53's recurrence, word by word. -/
theorem scheduleWord_keyExpansion_recurrence (key : Block) {i : Nat} (h4 : 4 ≤ i) (hi : i < 44) :
    scheduleWord (keyExpansion key) ⟨i, hi⟩ =
      xorWord (scheduleWord (keyExpansion key) ⟨i - 4, by omega⟩)
        (expansionTemp i (scheduleWord (keyExpansion key) ⟨i - 1, by omega⟩)) := by
  obtain ⟨m, rfl⟩ := Nat.exists_eq_add_of_le' h4
  simpa [scheduleWord_keyExpansion, expandedWords_eq_wordsFrom, Nat.add_comm 4 m] using
    wordsFrom_recurrence (show m < 40 by omega) 4 (column key 0) (column key 1) (column key 2) (column key 3)

theorem expansionTemp_of_not_dvd {i : Nat} (h : i % 4 ≠ 0) (prev : Word) : expansionTemp i prev = prev := by
  simp [expansionTemp, h]

theorem expansionTemp_of_dvd {i : Nat} (h : i % 4 = 0) (hi : i < 44) (prev : Word) :
    expansionTemp i prev = xorRcon (subWord (rotWord prev)) ⟨i / 4, by omega⟩ := by
  have hdiv : i / 4 % 11 = i / 4 := by omega
  simp [expansionTemp, h, hdiv]

theorem rotWord_getElem (t : Word) (j : Nat) (hj : j < 4) : (rotWord t)[j] = t[(j + 1) % 4]'(by omega) := by
  interval_cases j <;> rfl

/-- Only byte 0 receives the round constant (R53). -/
theorem xorRcon_getElem (t : Word) (r : Fin 11) (j : Nat) (hj : j < 4) :
    (xorRcon t r)[j] = t[j] ^^^ if j = 0 then rcon r else 0 := by
  interval_cases j <;> simp [xorRcon]

theorem rcon_doubles {n : Nat} (h1 : 1 ≤ n) (hn : n < 10) :
    rcon ⟨n + 1, by omega⟩ = xtime (rcon ⟨n, by omega⟩) := by
  have hpred : (⟨n + 1, by omega⟩ : Fin 11) - 1 = ⟨n, by omega⟩ := by
    rw [Fin.ext_iff, Fin.sub_val_of_le (Nat.le_add_left 1 n)]
    rfl
  rw [rcon_succ _ (Nat.succ_le_succ h1), hpred]

/-- Settles O8: byte by byte from the recurrence on words, in the two cases of `expansionTemp`. -/
theorem keyExpansionSatisfiesTheRecurrence : Obligations.KeyExpansionSatisfiesTheRecurrence := by
  intro key
  refine ⟨fun i j hi hj => ?_, fun i j h4 hi hj hmod => ?_, fun i j h4 hi hj hmod => ?_, rcon_one,
    fun n h1 hn => rcon_doubles h1 hn⟩
  · rw [scheduleWord_keyExpansion_key key ⟨i, hi⟩, column_getElem]
    rfl
  · rw [scheduleWord_keyExpansion_recurrence key h4 hi, xorWord_getElem, expansionTemp_of_not_dvd hmod]
  · rw [scheduleWord_keyExpansion_recurrence key h4 hi, xorWord_getElem, expansionTemp_of_dvd hmod hi,
      xorRcon_getElem, subWord_getElem, rotWord_getElem]

theorem exec_enc_idle {s : State} (h : s.phase = .idle) (key din : Port) :
    exec (.enc key din) s = .next (s.clearDone.accept .forward key din) := by
  rw [exec_eq_presentCommand, presentCommand_idle h, acceptedEffect]

theorem exec_dec_idle {s : State} (h : s.phase = .idle) (key din : Port) :
    exec (.dec key din) s = .next (s.clearDone.accept .inverse key din) := by
  rw [exec_eq_presentCommand, presentCommand_idle h, acceptedEffect]

/-- Settles O10: every accepted command writes the expansion of its key (`State.accept_sched`). -/
theorem scheduleDependsOnTheKeyAlone : Obligations.ScheduleDependsOnTheKeyAlone := by
  intro key din din' s s' hs hs'
  refine ⟨_, _, _, exec_enc_idle hs key din, exec_dec_idle hs' key din', exec_enc_idle hs' key din', ?_, ?_⟩
  · rw [State.accept_sched, State.accept_sched]
  · rw [State.accept_sched, State.accept_sched]

end Sys2Proof.Machine
end

section
/-! PROOFS. The row shifts (spec/43_shiftrows.md R62, R63), settling O14: the column index arithmetic is `Fin 4`'s, and the whole blocks follow from the entries row by row. -/

namespace Sys2Proof.Machine

/-- R63 takes the column `c - r` modulo 4; written on numbers, 4 is added first so that nothing is cut off. -/
theorem columnSub_eq_mod (c r : Fin 4) : c - r = ⟨(c.val + 4 - r.val) % 4, Nat.mod_lt _ (by decide)⟩ := by
  have hcomm : 4 - r.val + c.val = c.val + 4 - r.val := by omega
  rw [Fin.ext_iff, Fin.val_sub, hcomm]

/-- R62's table P. -/
theorem shiftRows_eq_permutationP (b : Block) :
    shiftRows b = #v[b[0], b[5], b[10], b[15], b[4], b[9], b[14], b[3],
      b[8], b[13], b[2], b[7], b[12], b[1], b[6], b[11]] := by
  refine block_ext fun r c => ?_
  rw [stateByte_shiftRows]
  fin_cases r <;> fin_cases c <;> rfl

/-- R63's table Q. -/
theorem invShiftRows_eq_permutationQ (b : Block) :
    invShiftRows b = #v[b[0], b[13], b[10], b[7], b[4], b[1], b[14], b[11],
      b[8], b[5], b[2], b[15], b[12], b[9], b[6], b[3]] := by
  refine block_ext fun r c => ?_
  rw [stateByte_invShiftRows]
  fin_cases r <;> fin_cases c <;> rfl

/-- Settles O14: each entry from the state-byte law of its shift, and the two tables from the entries. -/
theorem shiftRowsRotatesRowRByRPositions : Obligations.ShiftRowsRotatesRowRByRPositions := by
  refine fun b => ⟨fun r c => ?_, fun r c => ?_, shiftRows_eq_permutationP b, invShiftRows_eq_permutationQ b⟩
  · have hcol : c + r = ⟨(c.val + r.val) % 4, Nat.mod_lt _ (by decide)⟩ := Fin.add_def c r
    rw [stateByte_shiftRows, hcol]
  · rw [stateByte_invShiftRows, columnSub_eq_mod]

end Sys2Proof.Machine
end

section
/-! PROOFS. MixColumns and InvMixColumns (spec/44_mixcolumns.md R69), settling O19: a block assembled from four columns has those columns. -/

namespace Sys2Proof.Machine

@[simp] theorem column_blockOfColumns (cols : Vector Word 4) (c : Fin 4) : column (blockOfColumns cols) c = cols[c] := by
  ext r hr : 1
  rw [column_getElem, stateByte_blockOfColumns]
  rfl

@[simp] theorem column_mixColumns (b : Block) (c : Fin 4) : column (mixColumns b) c = mixColumn (column b c) := by
  simp [mixColumns]

@[simp] theorem column_invMixColumns (x : Block) (c : Fin 4) :
    column (invMixColumns x) c = invMixColumn (column x c) := by
  simp [invMixColumns]

/-- Settles O19: both transforms assemble their block from the columns they compute. -/
theorem mixColumnsActsColumnByColumn : Obligations.MixColumnsActsColumnByColumn :=
  fun b c => ⟨column_mixColumns b c, column_invMixColumns b c⟩

end Sys2Proof.Machine
end

section
/-! PROOFS. RoundKeyAdd (spec/45_addroundkey.md R71), settling O21: each law of the block is the XOR law of its bytes. -/

namespace Sys2Proof.Machine

@[simp] theorem addRoundKey_addRoundKey (b x : Block) : addRoundKey (addRoundKey b x) x = b := by
  ext i hi : 1
  rw [addRoundKey_getElem, addRoundKey_getElem, BitVec.xor_assoc, BitVec.xor_self, BitVec.xor_zero]

@[simp] theorem addRoundKey_zero (b : Block) : addRoundKey b (Vector.replicate 16 0) = b := by
  ext i hi : 1
  rw [addRoundKey_getElem, Vector.getElem_replicate]
  exact BitVec.xor_zero

@[simp] theorem addRoundKey_self (b : Block) : addRoundKey b b = Vector.replicate 16 0 := by
  ext i hi : 1
  rw [addRoundKey_getElem, Vector.getElem_replicate]
  exact BitVec.xor_self

/-- Settles O21: the byte at each position, then the three laws that follow from it. -/
theorem addRoundKeyIsSelfInverseXor : Obligations.AddRoundKeyIsSelfInverseXor :=
  fun b x => ⟨fun i hi => addRoundKey_getElem b x i hi, addRoundKey_addRoundKey b x, addRoundKey_zero b,
    addRoundKey_self b⟩

end Sys2Proof.Machine
end

section
/-! PROOFS. Presented commands (spec/46_orchestrator.md R72, R81; 60_exceptions.md R84), settling O24 and O26: a step with rst = 0 and start = 1 runs the command on the ports, which is accepted in PHASE = IDLE and ignored in every other phase. -/

namespace Sys2Proof.Machine

/-- In PHASE = IDLE every command is accepted, the invalid modes too (R72). -/
theorem exec_idle {s : State} (h : s.phase = .idle) (i : Instr) : exec i s = .next (acceptedEffect i s.clearDone) := by
  rw [exec_eq_presentCommand, presentCommand_idle h]

/-- Outside PHASE = IDLE every command is ignored (R81). -/
theorem exec_ignored {s : State} (h : s.phase ≠ .idle) (i : Instr) : exec i s = .next s := by
  rw [exec_eq_presentCommand, presentCommand_ignored h]

/-- A step with rst = 0 and start = 1 runs the command that the mode selects, its turn having left the agenda. -/
theorem step_start {s : State} {mode : Mode} {key din : Port} {rest : List Turn}
    (h : s.agenda = .drive ⟨false, true, mode, key, din⟩ :: rest) :
    step s = exec (decodeFields mode key din) (s.withAgenda rest) := by
  rw [step_drive h, drivePorts_start rfl rfl]

/-- The accept step of a valid mode, each captured byte at its port bits (R72, R30). -/
theorem accept_clearDone (d : Direction) (key din : Port) (s : State) :
    s.clearDone.accept d key din = { s with
      done := false, dir := some d,
      blk := some (Vector.ofFn fun n => din.extractLsb' (120 - 8 * n.val) 8),
      sched := some (keyExpansion (Vector.ofFn fun n => key.extractLsb' (120 - 8 * n.val) 8)),
      k := 0, phase := .busy, busy := true } := rfl

/-- The accept step of an invalid mode (R84). -/
theorem raiseInvalidMode_clearDone (s : State) :
    s.clearDone.raiseInvalidMode = { s with done := false, err := true, phase := .fault } := rfl

/-- Settles O24: the effect of each of the four accepted commands, and the step that presents it. -/
theorem acceptStepCapturesTheCommand : Obligations.AcceptStepCapturesTheCommand := by
  intro key din s hidle
  refine ⟨?enc, ?dec, ?invalidMode2, ?invalidMode3, fun mode rest => ?step⟩
  case enc => rw [exec_enc_idle hidle, accept_clearDone]
  case dec => rw [exec_dec_idle hidle, accept_clearDone]
  case invalidMode2 => rw [exec_idle hidle, acceptedEffect, raiseInvalidMode_clearDone]
  case invalidMode3 => rw [exec_idle hidle, acceptedEffect, raiseInvalidMode_clearDone]
  case step => rw [step_start (State.withAgenda_agenda _ s), State.withAgenda_withAgenda, decodeFields]

/-- Settles O26: in both phases the command is ignored, so the step only takes its turn from the agenda. -/
theorem commandsAreIgnoredWhileBusyOrFaulted : Obligations.CommandsAreIgnoredWhileBusyOrFaulted := by
  intro s hphase
  have hnot : s.phase ≠ .idle := by
    rcases hphase with h | h <;> simp [h]
  refine ⟨exec_ignored hnot, fun mode key din rest hagenda => ?_⟩
  rw [step_start hagenda, exec_ignored (s := s.withAgenda rest) hnot, State.withAgenda]

end Sys2Proof.Machine
end

section
/-! PROOFS. The CORE's round steps (spec/46_orchestrator.md R75 to R80), settling O34 to O38 and O40: the block of the rule that DIR and K select, and the step around it, which advances K below 10 and completes at 10. -/

namespace Sys2Proof.Machine

section RoundBlock

variable (sc : Schedule) (b : Block)

theorem roundBlock_forward_zero : roundBlock .forward sc 0 b = encInitialRound sc b := rfl

theorem roundBlock_forward_last : roundBlock .forward sc 10 b = encFinalRound sc b := rfl

theorem roundBlock_inverse_zero : roundBlock .inverse sc 0 b = decInitialRound sc b := rfl

theorem roundBlock_inverse_last : roundBlock .inverse sc 10 b = decFinalRound sc b := rfl

/-- The rounds that `roundBlock` tells from the full ones are 0 and 10. -/
theorem round_ne_ends {r : Round} (h1 : 1 ≤ r.val) (h9 : r.val ≤ 9) : r ≠ 0 ∧ r ≠ 10 := by
  constructor <;> (rintro rfl; contradiction)

theorem roundBlock_forward_full {r : Round} (h1 : 1 ≤ r.val) (h9 : r.val ≤ 9) :
    roundBlock .forward sc r b = encFullRound sc r b := by
  obtain ⟨hne0, hne10⟩ := round_ne_ends h1 h9
  rw [roundBlock, if_neg hne0, if_neg hne10]

/-- Inverse round r is round step K = 10 - r (R79). -/
theorem roundBlock_inverse_full {k r : Round} (hkr : k.val + r.val = 10) (h1 : 1 ≤ r.val) (h9 : r.val ≤ 9) :
    roundBlock .inverse sc k b = decFullRound sc r b := by
  obtain ⟨hne0, hne10⟩ := round_ne_ends (r := k) (by omega) (by omega)
  have hr : (⟨10 - k.val, by omega⟩ : Round) = r := Fin.ext (show 10 - k.val = r.val by omega)
  rw [roundBlock, if_neg hne0, if_neg hne10, hr]

end RoundBlock

theorem advance_of_k_zero {s : State} (hk : s.k = 0) (b : Block) :
    s.advance b = { s with blk := some b, k := 1 } := by
  rw [State.advance, hk]
  rfl

/-- `State.complete` with its flags written out (R77, R80). -/
theorem complete_eq (b : Block) (s : State) :
    s.complete b = { s with
      blk := some b, dout := some b, done := true, busy := false, phase := .idle, k := 0 } := rfl

section BusyCore

variable {s : State} {d : Direction} {b : Block} {sc : Schedule}
  (hphase : s.phase = .busy) (hdir : s.dir = some d) (hblk : s.blk = some b) (hsched : s.sched = some sc)

include hphase hdir hblk hsched

/-- At K = r the CORE's step is the round step r (R82). -/
theorem coreStep_eq_roundStep {r : Round} (hk : s.k.toNat = r.val) : coreStep s = .next (roundStep d sc r b s) := by
  obtain ⟨n, hn⟩ := r
  subst hk
  exact coreStep_busy hphase hdir hblk hsched hn

/-- Below K = 10 the CORE's step writes the round's block and advances K (R75, R76, R78, R79). -/
theorem coreStep_advances {r : Round} (hk : s.k.toNat = r.val) (hr : r ≠ 10) :
    coreStep s = .next (s.advance (roundBlock d sc r b)) := by
  rw [coreStep_eq_roundStep hphase hdir hblk hsched hk, roundStep_lt hr]

/-- At K = 0 the step leaves K = 1 (R75, R78). -/
theorem coreStep_first (hk : s.k = 0) :
    coreStep s = .next { s with blk := some (roundBlock d sc 0 b), k := 1 } := by
  rw [coreStep_advances hphase hdir hblk hsched (r := 0) (by rw [hk]; rfl) (by decide), advance_of_k_zero hk]

/-- At K = 10 the CORE's step completes the operation (R77, R80). -/
theorem coreStep_completes (hk : s.k = 10) : coreStep s = .next (s.complete (roundBlock d sc 10 b)) := by
  rw [coreStep_eq_roundStep hphase hdir hblk hsched (r := 10) (by rw [hk]; rfl), roundStep_last]

end BusyCore

/-- Settles O35: the step advances K, and its block is that of the full round. -/
theorem encFullRoundStep : Obligations.EncFullRoundStep := by
  intro s b sc r hphase hdir hblk hsched hk h1 h9
  rw [coreStep_advances hphase hdir hblk hsched hk (round_ne_ends h1 h9).2, roundBlock_forward_full sc b h1 h9,
    encFullRound, State.advance]

/-- Settles O38: round step K is inverse round r = 10 - K. -/
theorem decFullRoundStep : Obligations.DecFullRoundStep := by
  intro s b sc r hphase hdir hblk hsched hkr h1 h9
  obtain ⟨k, hk⟩ : ∃ k : Round, s.k.toNat = k.val := ⟨⟨s.k.toNat, by omega⟩, rfl⟩
  rw [hk] at hkr
  have hne : k ≠ 10 := (round_ne_ends (r := k) (by omega) (by omega)).2
  rw [coreStep_advances hphase hdir hblk hsched hk hne, roundBlock_inverse_full sc b hkr h1 h9, decFullRound,
    State.advance]

/-- Settles O34: the first step, with the initial AddRoundKey of ENC. -/
theorem encRoundStepZero : Obligations.EncRoundStepZero := by
  intro s b sc hphase hdir hblk hsched hk
  rw [coreStep_first hphase hdir hblk hsched hk, roundBlock_forward_zero, encInitialRound]

/-- Settles O37: the first step, with the initial AddRoundKey of DEC. -/
theorem decRoundStepZero : Obligations.DecRoundStepZero := by
  intro s b sc hphase hdir hblk hsched hk
  rw [coreStep_first hphase hdir hblk hsched hk, roundBlock_inverse_zero, decInitialRound]

/-- Settles O36: the completion, with the final round of ENC. -/
theorem encFinalRoundStep : Obligations.EncFinalRoundStep := by
  intro s b sc hphase hdir hblk hsched hk
  rw [coreStep_completes hphase hdir hblk hsched hk, roundBlock_forward_last, encFinalRound, complete_eq]

/-- Settles O40: the completion, with the final round of DEC. -/
theorem decFinalRoundStep : Obligations.DecFinalRoundStep := by
  intro s b sc hphase hdir hblk hsched hk
  rw [coreStep_completes hphase hdir hblk hsched hk, roundBlock_inverse_last, decFinalRound, complete_eq]

end Sys2Proof.Machine
end

section
/-! PROOFS. The InvalidMode fault (spec/60_exceptions.md R84, R86), settling O25 and O49: what each kind of step does to ERR and PHASE = FAULT, and to a core in PHASE = FAULT. -/

namespace Sys2Proof.Machine

/-- From `s` to `t` no fault is raised: neither does ERR rise nor is PHASE = FAULT entered. -/
def State.NoFaultRaised (s t : State) : Prop :=
  (t.err = true → s.err = true) ∧ (t.phase = .fault → s.phase = .fault)

/-- Raising a fault concerns the registers alone, not the HOST's agenda. -/
theorem State.noFaultRaised_withAgenda (ts : List Turn) (s t : State) :
    (s.withAgenda ts).NoFaultRaised t ↔ s.NoFaultRaised t := Iff.rfl

/-- A CORE step raises no fault: a round step keeps ERR and ends in PHASE = BUSY or PHASE = IDLE (R75 to R80). -/
theorem coreStep_noFaultRaised {s t : State} (h : coreStep s = .next t) : s.NoFaultRaised t := by
  rcases coreStep_next h with ⟨_, rfl⟩ | ⟨_, hk, rfl⟩
  case inl => exact ⟨id, id⟩
  case inr =>
    rcases roundStep_cases s.readDir s.readSched ⟨s.k.toNat, hk⟩ s.readBlk s with ⟨_, e⟩ | ⟨_, e⟩
    · simp [State.NoFaultRaised, e]
    · simp [State.NoFaultRaised, e]

/-- With mode MODE_ENC or MODE_DEC the command on the ports is accepted as a valid one (R44, R72). -/
theorem acceptedEffect_of_valid_mode {mode : Mode} (h : mode = Config.modeEnc ∨ mode = Config.modeDec)
    (key din : Port) : ∃ d, acceptedEffect (decodeFields mode key din) = State.accept d key din := by
  rcases h with rfl | rfl
  · exact ⟨.forward, rfl⟩
  · exact ⟨.inverse, rfl⟩

/-- A HOST step on the ports raises a fault only where it is the accept step of an illegal mode (R84). -/
theorem drivePorts_noFaultRaised_or {p : InPorts} {s t : State} (h : drivePorts p s = .next t) :
    s.NoFaultRaised t ∨
      (s.phase = .idle ∧ p.rst = false ∧ p.start = true ∧ p.mode ≠ Config.modeEnc ∧ p.mode ≠ Config.modeDec) := by
  rcases drivePorts_cases h with ⟨_, rfl⟩ | ⟨_, rfl⟩ | ⟨hrst, hstart, hidle, rfl⟩
  case inl => exact .inl (by simp [State.NoFaultRaised])
  case inr.inl => exact .inl ⟨id, id⟩
  case inr.inr =>
    by_cases hmode : p.mode = Config.modeEnc ∨ p.mode = Config.modeDec
    · obtain ⟨d, hd⟩ := acceptedEffect_of_valid_mode hmode p.key p.din
      exact .inl (by simp [State.NoFaultRaised, hd])
    · exact .inr ⟨hidle, hrst, hstart, not_or.mp hmode⟩

/-- A step raises a fault only where it is the accept step of an illegal mode (R84). -/
theorem step_noFaultRaised_or {s t : State} (h : step s = .next t) :
    s.NoFaultRaised t ∨
      (s.phase = .idle ∧ ∃ (p : InPorts) (rest : List Turn), s.agenda = .drive p :: rest ∧ p.rst = false ∧
        p.start = true ∧ p.mode ≠ Config.modeEnc ∧ p.mode ≠ Config.modeDec) := by
  rcases step_cases h with ⟨ts, _, hcore⟩ | ⟨p, rest, hagenda, hdrive⟩ | ht
  case inl => exact .inl ((State.noFaultRaised_withAgenda ts s t).mp (coreStep_noFaultRaised hcore))
  case inr.inl =>
    rcases drivePorts_noFaultRaised_or hdrive with hno | ⟨hidle, hports⟩
    · exact .inl ((State.noFaultRaised_withAgenda rest s t).mp hno)
    · exact .inr ⟨hidle, p, rest, hagenda, hports⟩
  case inr.inr =>
    rw [ht]
    exact .inl ⟨id, id⟩

/-- Settles O25: the effect is that of the accept step, and any other step raises no fault. -/
theorem invalidModeIsPreciseAndRaisedOnlyByAnIllegalMode :
    Obligations.InvalidModeIsPreciseAndRaisedOnlyByAnIllegalMode := by
  refine ⟨fun key din s hidle => ⟨?invalidMode2, ?invalidMode3⟩, fun s t hstep hraised => ?raised⟩
  case invalidMode2 => rw [exec_idle hidle, acceptedEffect, raiseInvalidMode_clearDone]
  case invalidMode3 => rw [exec_idle hidle, acceptedEffect, raiseInvalidMode_clearDone]
  case raised =>
    refine (step_noFaultRaised_or hstep).resolve_left fun ⟨herr, hphase⟩ => ?_
    rcases hraised with ⟨hlow, hhigh⟩ | ⟨hout, hin⟩
    · exact absurd (herr hhigh) (by simp [hlow])
    · exact hout (hphase hin)

/-- In PHASE = FAULT a HOST step on the ports is a Reset step or changes nothing (R81, R86). -/
theorem drivePorts_fault {p : InPorts} {s t : State} (hfault : s.phase = .fault) (h : drivePorts p s = .next t) :
    (p.rst = true ∧ t = s.resetStep) ∨ t = s := by
  rcases drivePorts_cases h with hreset | ⟨_, hsame⟩ | ⟨_, _, hidle, _⟩
  · exact .inl hreset
  · exact .inr hsame
  · simp [hfault] at hidle

/-- Settles O49: the CORE has no step in PHASE = FAULT, and no turn of the HOST but a Reset step writes a register. -/
theorem faultIsLeftOnlyByReset : Obligations.FaultIsLeftOnlyByReset := by
  intro s t hfault hstep
  rcases step_cases hstep with ⟨ts, _, hcore⟩ | ⟨p, rest, hagenda, hdrive⟩ | ht
  case inl =>
    rw [coreStep_not_busy (by simp [hfault])] at hcore
    cases hcore
    exact .inr rfl
  case inr.inl =>
    rcases drivePorts_fault (s := s.withAgenda rest) hfault hdrive with ⟨hrst, rfl⟩ | rfl
    · exact .inl ⟨p, rest, hagenda, hrst, rfl⟩
    · exact .inr rfl
  case inr.inr =>
    right
    rw [ht]

end Sys2Proof.Machine
end

section
/-! PROOFS. The Reset step (spec/70_reset_and_hazards.md R92, R93), settling O29: the turn leaves the agenda, and reset takes precedence over what the other ports present. -/

namespace Sys2Proof.Machine

/-- A step with rst = 1 is the Reset step, its turn having left the agenda (R93). -/
theorem step_reset {p : InPorts} {rest : List Turn} {s : State} (h : s.agenda = .drive p :: rest)
    (hrst : p.rst = true) : step s = .next (s.withAgenda rest).resetStep := by
  rw [step_drive h, drivePorts_reset hrst]

/-- Settles O29: no phase and no other port is asked for, so every register has its value of `State.resetStep`. -/
theorem resetStepBeatsEverything : Obligations.ResetStepBeatsEverything := by
  intro p rest s hagenda hrst
  refine ⟨(s.withAgenda rest).resetStep, step_reset hagenda hrst, ?registers⟩
  case registers => simp only [State.resetStep_phase, State.resetStep_k, State.resetStep_busy, State.resetStep_done,
    State.resetStep_err, State.resetStep_blk, State.resetStep_sched, State.resetStep_dir, State.resetStep_dout, and_self]

end Sys2Proof.Machine
end

section
/-! PROOFS. The command word (spec/30_encoding.md R43, R44, R47, R48), settling O1 to O5: the decoder on the fields of a word, the word of the decoded command, and the 65-digit listing as the word's number. -/

namespace Sys2Proof

/-- A number with no bit above bit 257 is decoded by its fields (R47). -/
theorem decode_of_lt {w : Nat} (h : w < 2 ^ 258) :
    decode w = .ok (decodeFields (commandMode w) (commandKey w) (commandDin w)) := by
  have hmode : w / 2 ^ 256 < 4 := by omega
  rw [decode, if_pos hmode]

/-- A number with a bit above bit 257 is refused by name (log 13). -/
theorem decode_of_ge {w : Nat} (h : 2 ^ 258 ≤ w) : decode w = .error .bitsAboveCommandWord := by
  have hmode : ¬ w / 2 ^ 256 < 4 := by omega
  rw [decode, if_neg hmode]

theorem command_toNat_lt (w : Command) : w.toNat < 2 ^ 258 := by bv_omega

theorem decode_commandOf (mode : Mode) (key din : Port) :
    decode (commandOf mode key din).toNat = .ok (decodeFields mode key din) := by
  rw [decode_of_lt (command_toNat_lt _), commandMode_commandOf, commandKey_commandOf,
    commandDin_commandOf]

/-- The mode of a command selects that command (R44). -/
theorem decodeFields_mode_key_din (i : Instr) : decodeFields i.mode i.key i.din = i := by
  cases i <;> rfl

/-- Settles O1: the word's fields are the command's, and its mode selects it. -/
theorem decodeOfEncodeIsTheCommand : Obligations.DecodeOfEncodeIsTheCommand := by
  intro i _
  rw [encode, decode_commandOf, decodeFields_mode_key_din]

/-- What each of the four mode codes selects (R44). -/
theorem decodeFields_cases (mode : Mode) (key din : Port) :
    (mode = Config.modeEnc ∧ decodeFields mode key din = .enc key din) ∨
      (mode = Config.modeDec ∧ decodeFields mode key din = .dec key din) ∨
      (mode = 0b10#2 ∧ decodeFields mode key din = .invalidMode2 key din) ∨
      (mode = 0b11#2 ∧ decodeFields mode key din = .invalidMode3 key din) := by
  have codes : ∀ m : Mode, m = Config.modeEnc ∨ m = Config.modeDec ∨ m = 0b10#2 ∨ m = 0b11#2 := by decide
  rcases codes mode with rfl | rfl | rfl | rfl
  · exact .inl ⟨rfl, rfl⟩
  · exact .inr (.inl ⟨rfl, rfl⟩)
  · exact .inr (.inr (.inl ⟨rfl, rfl⟩))
  · exact .inr (.inr (.inr ⟨rfl, rfl⟩))

@[simp] theorem decodeFields_key (mode : Mode) (key din : Port) : (decodeFields mode key din).key = key := by
  rcases decodeFields_cases mode key din with ⟨_, h⟩ | ⟨_, h⟩ | ⟨_, h⟩ | ⟨_, h⟩ <;> rw [h, Instr.key]

@[simp] theorem decodeFields_din (mode : Mode) (key din : Port) : (decodeFields mode key din).din = din := by
  rcases decodeFields_cases mode key din with ⟨_, h⟩ | ⟨_, h⟩ | ⟨_, h⟩ | ⟨_, h⟩ <;> rw [h, Instr.din]

@[simp] theorem decodeFields_mode (mode : Mode) (key din : Port) : (decodeFields mode key din).mode = mode := by
  rcases decodeFields_cases mode key din with ⟨hm, h⟩ | ⟨hm, h⟩ | ⟨hm, h⟩ | ⟨hm, h⟩ <;> rw [h, Instr.mode, hm]

/-- The word assembled from the fields of a number below 2^258 is that number (R43). -/
theorem commandOf_fields {w : Nat} (h : w < 2 ^ 258) :
    (commandOf (commandMode w) (commandKey w) (commandDin w)).toNat = w := by
  rw [commandOf_toNat, commandMode, commandKey, commandDin]
  simp only [BitVec.toNat_ofNat]
  omega

/-- Settles O2: the decoded command has the fields of the number, and its word is assembled from them. -/
theorem everyCommandWordHasOneMeaning : Obligations.EveryCommandWordHasOneMeaning := by
  refine ⟨fun w hw => ⟨_, decode_of_lt hw, ?_⟩, fun w hw => decode_of_ge hw⟩
  rw [encode, decodeFields_mode, decodeFields_key, decodeFields_din, commandOf_fields hw]

theorem commandKey_getLsbD (w : Nat) {j : Nat} (hj : j < 128) : (commandKey w).getLsbD j = w.testBit (128 + j) := by
  rw [commandKey, BitVec.getLsbD_ofNat, Nat.testBit_div_two_pow, Nat.add_comm]
  simp [hj]

theorem commandDin_getLsbD (w : Nat) {j : Nat} (hj : j < 128) : (commandDin w).getLsbD j = w.testBit j := by
  rw [commandDin, BitVec.getLsbD_ofNat]
  simp [hj]

/-- The mode field is bits 257 and 256, in that order (R43). -/
theorem commandMode_eq_bits (w : Nat) :
    commandMode w = BitVec.ofBool (w.testBit 257) ++ BitVec.ofBool (w.testBit 256) := by
  refine BitVec.eq_of_getLsbD_eq fun j hj => ?_
  rw [commandMode, BitVec.getLsbD_ofNat, Nat.testBit_div_two_pow, BitVec.getLsbD_append]
  interval_cases j <;> simp

/-- Settles O3: key and din are the fields' bits, and the two mode bits select the command. -/
theorem decoderReadsModeKeyAndDinByPosition : Obligations.DecoderReadsModeKeyAndDinByPosition := by
  intro w hw
  refine ⟨_, decode_of_lt hw, fun j hj => ?key, fun j hj => ?din, ?modes⟩
  case key => rw [decodeFields_key, commandKey_getLsbD w hj]
  case din => rw [decodeFields_din, commandDin_getLsbD w hj]
  case modes =>
    rw [decodeFields_key, decodeFields_din, commandMode_eq_bits]
    refine ⟨fun h1 h0 => ?_, fun h1 h0 => ?_, fun h1 h0 => ?_, fun h1 h0 => ?_⟩ <;>
      (rw [h1, h0]; rfl)

/-- A list of hex digits, first digit first, is the library's list of base-16 digits read from the other end. -/
theorem hexValue_eq_ofDigits (ds : List Nat) : hexValue ds = Nat.ofDigits 16 ds.reverse := by
  rw [Nat.ofDigits_eq_foldr, List.foldr_reverse, hexValue]
  simp only [Nat.cast_id, Nat.add_comm]

theorem hexValue_concat (ds : List Nat) (d : Nat) : hexValue (ds ++ [d]) = 16 * hexValue ds + d := by
  simp [hexValue]

theorem hexValue_append (xs ys : List Nat) :
    hexValue (xs ++ ys) = hexValue xs * 16 ^ ys.length + hexValue ys := by
  rw [hexValue_eq_ofDigits, List.reverse_append, Nat.ofDigits_append, ← hexValue_eq_ofDigits, ← hexValue_eq_ofDigits,
    List.length_reverse, Nat.add_comm, Nat.mul_comm]

theorem hexValue_lt {ds : List Nat} (h : ds.all isHexDigit = true) : hexValue ds < 16 ^ ds.length := by
  rw [hexValue_eq_ofDigits, ← List.length_reverse]
  refine Nat.ofDigits_lt_base_pow_length (by decide) fun d hd => ?_
  simpa [isHexDigit] using List.all_eq_true.mp h d (List.mem_reverse.mp hd)

/-- Digit n of the listing of a 258-bit number (R48). -/
def listingDigit (w n : Nat) : Nat := w / 2 ^ (4 * (64 - n)) % 16

theorem listing_eq_map (w : Command) : listing w = (List.range 65).map (listingDigit w.toNat) := rfl

/-- The first m digits of the listing write the number without its low 65 - m digits: by induction on m. -/
theorem hexValue_listingDigits {w : Nat} (hw : w < 2 ^ 258) {m : Nat} (hm : m ≤ 65) :
    hexValue ((List.range m).map (listingDigit w)) = w / 2 ^ (4 * (65 - m)) := by
  induction m with
  | zero =>
    have hzero : w / 2 ^ (4 * (65 - 0)) = 0 := Nat.div_eq_of_lt (by omega)
    rw [hzero]
    rfl
  | succ m ih =>
    have hpow : 4 * (65 - m) = 4 * (64 - m) + 4 := by omega
    have hsucc : 65 - (m + 1) = 64 - m := by omega
    rw [List.range_succ, List.map_append, List.map_singleton, hexValue_concat, ih (by omega), listingDigit, hpow, hsucc,
      Nat.pow_add, ← Nat.div_div_eq_div_mul]
    omega

theorem hexValue_listing (w : Command) : hexValue (listing w) = w.toNat := by
  rw [listing_eq_map, hexValue_listingDigits (command_toNat_lt w) le_rfl]
  exact Nat.div_one _

theorem listing_length (w : Command) : (listing w).length = 65 := by
  simp [listing]

theorem listing_all_isHexDigit (w : Command) : (listing w).all isHexDigit = true := by
  simp [listing, isHexDigit, Nat.mod_lt]

theorem decodeListing_listing (w : Command) : decodeListing (listing w) = decode w.toNat := by
  rw [decodeListing, if_neg (not_not.mpr (listing_length w)), if_pos (listing_all_isHexDigit w), hexValue_listing]

/-- The first digit of the listing is the mode (R48). -/
theorem listing_commandOf_head (mode : Mode) (key din : Port) :
    (listing (commandOf mode key din)).head? = some mode.toNat := by
  have hm := mode.isLt
  have hk := key.isLt
  have hd := din.isLt
  have hdigit : listingDigit (commandOf mode key din).toNat 0 = mode.toNat := by
    rw [listingDigit, commandOf_toNat]
    omega
  rw [listing_eq_map, List.head?_map, List.head?_range, ← hdigit]
  rfl

/-- Settles O4: the listing writes the word's number, which decodes to the command. -/
theorem listingOfACommandDecodesToIt : Obligations.ListingOfACommandDecodesToIt := by
  intro i
  refine ⟨listing_length _, listing_commandOf_head _ _ _, ?_⟩
  rw [decodeListing_listing, decodeOfEncodeIsTheCommand i (by cases i <;> rfl)]

/-- Settles O5: four closed words, by evaluation of the decoder. -/
theorem programWordsOfTheSpecDecode : Obligations.ProgramWordsOfTheSpecDecode := by
  refine ⟨?_, ?_, ?_, ?_⟩ <;> decide +kernel

end Sys2Proof
end

section
/-! PROOFS. Hex operands (spec/30_encoding.md R48 with spec/20_memory.md R30), settling O7: two digits in the middle of a list of hex digits, read off its value. -/

namespace Sys2Proof.Machine

/-- The two digits before the last k of a list, from the number it writes. -/
theorem hexValue_div_mod_of_pair {xs ys : List Nat} {a b : Nat} (ha : a < 16) (hb : b < 16)
    (hys : ys.all isHexDigit = true) :
    hexValue (xs ++ a :: b :: ys) / 16 ^ ys.length % 256 = 16 * a + b := by
  have hsplit : xs ++ a :: b :: ys = (xs ++ [a] ++ [b]) ++ ys := by simp
  rw [hsplit, hexValue_append, hexValue_concat, hexValue_concat, Nat.add_comm,
    Nat.add_mul_div_right _ _ (by positivity), Nat.div_eq_of_lt (hexValue_lt hys)]
  omega

theorem hexOperandWf_iff (ds : List Nat) : hexOperandWf ds = true ↔ ds.length = 32 ∧ ds.all isHexDigit = true := by
  simp [hexOperandWf]

/-- A 128-bit operand keeps the whole number its digits write. -/
theorem operandOfDigits_toNat {ds : List Nat} (h : hexOperandWf ds = true) :
    (operandOfDigits ds).toNat = hexValue ds := by
  obtain ⟨hlen, hdigits⟩ := (hexOperandWf_iff ds).mp h
  have hlt := hexValue_lt hdigits
  rw [hlen] at hlt
  rw [operandOfDigits, BitVec.toNat_ofNat, Nat.mod_eq_of_lt (hlt.trans_eq (by norm_num))]

theorem portByte_toNat (p : Port) (n : Fin 16) : (portByte p n).toNat = p.toNat / 2 ^ (120 - 8 * n.val) % 256 := by
  rw [portByte, BitVec.extractLsb'_toNat, Nat.shiftRight_eq_div_pow]

/-- Settles O7: byte n is the pair of digits that 30 - 2n digits follow. -/
theorem hexOperandListsByteZeroFirst : Obligations.HexOperandListsByteZeroFirst := by
  intro ds hwf n hn
  obtain ⟨hlen, hdigits⟩ := (hexOperandWf_iff ds).mp hwf
  have hfst : 2 * n < ds.length := by omega
  have hsnd : 2 * n + 1 < ds.length := by omega
  have digit (i : Nat) (hi : i < ds.length) : ds[i] < 16 := by
    simpa [isHexDigit] using List.all_eq_true.mp hdigits ds[i] (List.getElem_mem hi)
  have hsplit : ds = ds.take (2 * n) ++ ds[2 * n] :: ds[2 * n + 1] :: ds.drop (2 * n + 2) := by
    rw [List.getElem_cons_drop, List.getElem_cons_drop, List.take_append_drop]
  have htail : (ds.drop (2 * n + 2)).all isHexDigit = true :=
    List.all_eq_true.mpr fun d hd => List.all_eq_true.mp hdigits d (List.mem_of_mem_drop hd)
  have hpow : 2 ^ (120 - 8 * n) = 16 ^ (ds.drop (2 * n + 2)).length := by
    rw [List.length_drop, hlen, show (16 : Nat) = 2 ^ 4 from rfl, ← Nat.pow_mul]
    congr 1
    omega
  rw [blockOfPort_getElem, portByte_toNat, operandOfDigits_toNat hwf, hpow, congrArg hexValue hsplit,
    List.getD_eq_getElem ds 0 hfst, List.getD_eq_getElem ds 0 hsnd]
  exact hexValue_div_mod_of_pair (digit _ hfst) (digit _ hsnd) htail

end Sys2Proof.Machine
end

section
/-! PROOFS. What a step can do to the registers, said once as one relation of six kinds (spec/46_orchestrator.md R72, R75 to R82, R92), and the rules on who writes DOUT, SCHED and DIR, settling O47, O48 and O55 from it. -/

namespace Sys2Proof.Machine

/-- From `s`, the states a step can answer: one constructor per way in which a step writes registers. The turns still to
come, `ts`, are those of `s` or those but the first. -/
inductive Transition (s : State) : State → Prop
  /-- No register is written: the HOST looks or waits, a command is ignored, or the CORE has no step (R81, R82). -/
  | keepRegisters (ts : List Turn) (os : List Observation) (hts : ts = s.agenda ∨ ts = s.agenda.tail) :
      Transition s { s with agenda := ts, observed := os }
  /-- A round step K = r below 10 (R75, R76, R78, R79). -/
  | advance (ts : List Turn) (r : Round) (hts : ts = s.agenda ∨ ts = s.agenda.tail) (hbusy : s.phase = .busy)
      (hk : s.k.toNat = r.val) (hr : r.val < 10) :
      Transition s ((s.withAgenda ts).advance (roundBlock s.readDir s.readSched r s.readBlk))
  /-- The round step K = 10 (R77, R80). -/
  | complete (ts : List Turn) (hts : ts = s.agenda ∨ ts = s.agenda.tail) (hbusy : s.phase = .busy) (hk : s.k = 10) :
      Transition s ((s.withAgenda ts).complete (roundBlock s.readDir s.readSched 10 s.readBlk))
  /-- A Reset step (R92). -/
  | reset (p : InPorts) (rest : List Turn) (hagenda : s.agenda = .drive p :: rest) (hrst : p.rst = true) :
      Transition s (s.withAgenda rest).resetStep
  /-- The accept step of a valid mode (R72). -/
  | accept (d : Direction) (p : InPorts) (rest : List Turn) (hagenda : s.agenda = .drive p :: rest)
      (hrst : p.rst = false) (hstart : p.start = true) (hidle : s.phase = .idle) (hmode : p.mode = d.modeCode) :
      Transition s ((s.withAgenda rest).clearDone.accept d p.key p.din)
  /-- The accept step of an invalid mode (R84). -/
  | raise (p : InPorts) (rest : List Turn) (hagenda : s.agenda = .drive p :: rest) (hidle : s.phase = .idle) :
      Transition s (s.withAgenda rest).clearDone.raiseInvalidMode

theorem Transition.of_coreStep {s t : State} {ts : List Turn} (hts : ts = s.agenda ∨ ts = s.agenda.tail)
    (h : coreStep (s.withAgenda ts) = .next t) : Transition s t := by
  rcases coreStep_next h with ⟨_, rfl⟩ | ⟨hbusy, hk, rfl⟩
  case inl => exact .keepRegisters ts s.observed hts
  case inr =>
    rcases roundStep_cases s.readDir s.readSched ⟨s.k.toNat, hk⟩ s.readBlk (s.withAgenda ts) with ⟨hr, e⟩ | ⟨hr, e⟩
    · have hk10 : s.k = 10 := BitVec.eq_of_toNat_eq (show s.k.toNat = 10 from congrArg Fin.val hr)
      have hlast : Transition s _ := .complete ts hts hbusy hk10
      rwa [← hr, ← e] at hlast
    · have hlt : s.k.toNat < 10 := Nat.lt_of_le_of_ne (Nat.le_of_lt_succ hk) fun h => hr (Fin.ext h)
      have hadvance : Transition s _ := .advance ts ⟨s.k.toNat, hk⟩ hts hbusy rfl hlt
      rwa [← e] at hadvance

theorem Transition.of_drivePorts {s t : State} {p : InPorts} {rest : List Turn} (ha : s.agenda = .drive p :: rest)
    (h : drivePorts p (s.withAgenda rest) = .next t) : Transition s t := by
  rcases drivePorts_cases h with ⟨hrst, rfl⟩ | ⟨_, rfl⟩ | ⟨hrst, hstart, hidle, rfl⟩
  case inl => exact .reset p rest ha hrst
  case inr.inl => exact .keepRegisters rest s.observed (.inr (by rw [ha, List.tail_cons]))
  case inr.inr =>
    rcases decodeFields_cases p.mode p.key p.din with ⟨hmode, e⟩ | ⟨hmode, e⟩ | ⟨_, e⟩ | ⟨_, e⟩ <;> rw [e]
    · exact .accept .forward p rest ha hrst hstart hidle hmode
    · exact .accept .inverse p rest ha hrst hstart hidle hmode
    · exact .raise p rest ha hidle
    · exact .raise p rest ha hidle

/-- Every step that answers a next state is one of the six kinds. -/
theorem Transition.of_step {s t : State} (h : step s = .next t) : Transition s t := by
  rcases step_cases h with ⟨ts, hts, hcore⟩ | ⟨p, rest, ha, hdrive⟩ | ht
  · exact .of_coreStep hts hcore
  · exact .of_drivePorts ha hdrive
  · rw [ht]
    exact .keepRegisters s.agenda.tail t.observed (.inr rfl)

/-- The agenda is kept, or loses its first turn. -/
theorem Transition.agenda_eq {s t : State} (h : Transition s t) : t.agenda = s.agenda ∨ t.agenda = s.agenda.tail := by
  cases h with
  | keepRegisters ts os hts => exact hts
  | advance ts r hts => exact hts
  | complete ts hts => exact hts
  | reset p rest ha => exact .inr (by simp [ha])
  | accept d p rest ha => exact .inr (by simp [ha])
  | raise p rest ha => exact .inr (by simp [ha])

/-- Settles O47: of the six kinds only the completion and the Reset step write DOUT. -/
theorem doutChangesOnlyAtCompletionOrReset : Obligations.DoutChangesOnlyAtCompletionOrReset := by
  intro s t hstep
  have htrans := Transition.of_step hstep
  refine ⟨htrans.agenda_eq, ?_⟩
  cases htrans with
  | keepRegisters => exact .inl rfl
  | advance => exact .inl rfl
  | complete ts hts hbusy hk => exact .inr (.inl ⟨hbusy, hk, rfl, rfl, rfl⟩)
  | reset p rest ha hrst => exact .inr (.inr ⟨rfl, p, rest, ha, hrst⟩)
  | accept => exact .inl rfl
  | raise => exact .inl rfl

/-- Settles O48: of the six kinds only the accept step of a valid mode and the Reset step write SCHED. -/
theorem scheduleChangesOnlyWhenACommandIsAccepted : Obligations.ScheduleChangesOnlyWhenACommandIsAccepted := by
  intro s t hstep hchanged
  cases Transition.of_step hstep with
  | keepRegisters => exact absurd rfl hchanged
  | advance => exact absurd rfl hchanged
  | complete => exact absurd rfl hchanged
  | reset p rest ha hrst => exact ⟨p, rest, ha, .inl ⟨hrst, rfl⟩⟩
  | accept d p rest ha hrst hstart hidle hmode =>
    have hvalid : p.mode = 0b00#2 ∨ p.mode = 0b01#2 := by cases d <;> simp [hmode, Direction.modeCode]
    exact ⟨p, rest, ha, .inr ⟨hrst, hstart, hidle, hvalid, rfl⟩⟩
  | raise => exact absurd rfl hchanged

/-- Settles O55: likewise for DIR, and the mode accepted is the one of the direction captured. -/
theorem directionChangesOnlyWhenACommandIsAccepted : Obligations.DirectionChangesOnlyWhenACommandIsAccepted := by
  intro s t hstep hchanged
  cases Transition.of_step hstep with
  | keepRegisters => exact absurd rfl hchanged
  | advance => exact absurd rfl hchanged
  | complete => exact absurd rfl hchanged
  | reset p rest ha hrst => exact ⟨p, rest, ha, .inl ⟨hrst, rfl⟩⟩
  | accept d p rest ha hrst hstart hidle hmode =>
    refine ⟨p, rest, ha, .inr ⟨hrst, hstart, hidle, ?_⟩⟩
    cases d with
    | forward => exact .inl ⟨hmode, rfl⟩
    | inverse => exact .inr ⟨hmode, rfl⟩
  | raise => exact absurd rfl hchanged

end Sys2Proof.Machine
end

section
/-! PROOFS. The control invariant (spec/10_state.md R13 to R17, R22), settling O42, O43, O45 and O46: each update of the registers keeps it, so every step does; under it the flags exclude each other and no step stops. -/

namespace Sys2Proof.Machine

theorem reset_inv : State.reset.Inv := by
  constructor <;> simp [State.reset]

/-- Settles O42: in the reset state PHASE is IDLE and DONE is 0. -/
theorem invariantsHoldAtReset : Obligations.InvariantsHoldAtReset :=
  ⟨reset_inv, fun _ _ _ => ⟨by simp [State.reset], by simp [State.reset]⟩⟩

/-- Below K = 10 the 4-bit increment does not wrap (R14). -/
theorem k_succ_toNat {k : BitVec 4} (hk : k.toNat < 10) : (k + 1).toNat = k.toNat + 1 := by
  have hone : (1 : BitVec 4).toNat = 1 := rfl
  rw [BitVec.toNat_add, hone, Nat.mod_eq_of_lt (by omega)]

/-- While BUSY the flags are BUSY = 1, DONE = 0, ERR = 0 (R16). -/
theorem State.Inv.flags_busy {s : State} (h : s.Inv) (hbusy : s.phase = .busy) :
    s.busy = true ∧ s.done = false ∧ s.err = false := by
  refine ⟨h.busy_iff.mpr hbusy, ?_, ?_⟩
  · exact Bool.eq_false_iff.mpr fun hd => absurd (h.done_idle hd) (by simp [hbusy])
  · exact Bool.eq_false_iff.mpr fun he => absurd (h.err_iff.mp he) (by simp [hbusy])

/-- In PHASE = IDLE BUSY = 0 and ERR = 0 (R16). -/
theorem State.Inv.flags_idle {s : State} (h : s.Inv) (hidle : s.phase = .idle) : s.busy = false ∧ s.err = false :=
  ⟨Bool.eq_false_iff.mpr fun hb => absurd (h.busy_iff.mp hb) (by simp [hidle]),
    Bool.eq_false_iff.mpr fun he => absurd (h.err_iff.mp he) (by simp [hidle])⟩

/-- In PHASE = FAULT the flags are BUSY = 0, DONE = 0, ERR = 1 (R16). -/
theorem State.Inv.flags_fault {s : State} (h : s.Inv) (hfault : s.phase = .fault) :
    s.busy = false ∧ s.done = false ∧ s.err = true :=
  ⟨Bool.eq_false_iff.mpr fun hb => absurd (h.busy_iff.mp hb) (by simp [hfault]),
    Bool.eq_false_iff.mpr fun hd => absurd (h.done_idle hd) (by simp [hfault]), h.err_iff.mpr hfault⟩

theorem State.Inv.keepRegisters {s : State} (h : s.Inv) (ts : List Turn) (os : List Observation) :
    ({ s with agenda := ts, observed := os } : State).Inv :=
  ⟨h.busy_iff, h.err_iff, h.done_idle, h.k_le, h.k_zero, h.dir_written, h.blk_written, h.sched_written,
    h.done_result⟩

theorem State.Inv.advance {s : State} (h : s.Inv) (hbusy : s.phase = .busy) (hk : s.k.toNat < 10) (b : Block) :
    (s.advance b).Inv := by
  obtain ⟨_, hdone, _⟩ := h.flags_busy hbusy
  have hk_le : (s.k + 1).toNat ≤ 10 := by rw [k_succ_toNat hk]; omega
  exact ⟨h.busy_iff, h.err_iff, h.done_idle, hk_le, fun hn => absurd hbusy hn, h.dir_written, fun _ => rfl,
    h.sched_written, by simp [hdone]⟩

theorem State.Inv.complete {s : State} (h : s.Inv) (hbusy : s.phase = .busy) (b : Block) : (s.complete b).Inv := by
  obtain ⟨_, _, herr⟩ := h.flags_busy hbusy
  constructor <;> simp [herr]

theorem State.Inv.resetStep (s : State) : s.resetStep.Inv := by
  constructor <;> simp

theorem State.Inv.accept {s : State} (h : s.Inv) (hidle : s.phase = .idle) (d : Direction) (key din : Port) :
    (s.clearDone.accept d key din).Inv := by
  obtain ⟨_, herr⟩ := h.flags_idle hidle
  constructor <;> simp [herr]

theorem State.Inv.raiseInvalidMode {s : State} (h : s.Inv) (hidle : s.phase = .idle) :
    s.clearDone.raiseInvalidMode.Inv := by
  obtain ⟨hbusy, _⟩ := h.flags_idle hidle
  have hk : s.k = 0 := h.k_zero (by simp [hidle])
  constructor <;> simp [hbusy, hk]

/-- Settles O43: each of the six kinds of step keeps the invariant. -/
theorem stepKeepsTheControlInvariant : Obligations.StepKeepsTheControlInvariant := by
  intro s t hinv hstep
  cases Transition.of_step hstep with
  | keepRegisters ts os => exact hinv.keepRegisters ts os
  | advance ts r hts hbusy hk hr => exact (hinv.withAgenda ts).advance hbusy (hk.trans_lt hr) _
  | complete ts hts hbusy => exact (hinv.withAgenda ts).complete hbusy _
  | reset p rest => exact State.Inv.resetStep _
  | accept d p rest ha hrst hstart hidle => exact (hinv.withAgenda rest).accept hidle d p.key p.din
  | raise p rest ha hidle => exact (hinv.withAgenda rest).raiseInvalidMode hidle

/-- The status vector is its three flags (R17). -/
theorem statusVector_getLsbD (s : State) :
    s.statusVector.getLsbD 0 = s.busy ∧ s.statusVector.getLsbD 1 = s.done ∧ s.statusVector.getLsbD 2 = s.err := by
  rw [State.statusVector]
  cases s.err <;> cases s.done <;> cases s.busy <;> decide

/-- Settles O45: the invariant leaves one vector in PHASE = BUSY, one in FAULT and two in IDLE. -/
theorem statusVectorIsLegal : Obligations.StatusVectorIsLegal := by
  refine fun s => ⟨statusVector_getLsbD s, fun hinv => ?_⟩
  rw [State.statusVector]
  cases hphase : s.phase with
  | idle =>
    obtain ⟨hbusy, herr⟩ := hinv.flags_idle hphase
    cases hdone : s.done <;> simp [hbusy, herr]
  | busy =>
    obtain ⟨hbusy, hdone, herr⟩ := hinv.flags_busy hphase
    simp [hbusy, hdone, herr]
  | fault =>
    obtain ⟨hbusy, hdone, herr⟩ := hinv.flags_fault hphase
    simp [hbusy, hdone, herr]

/-- From `s` to `t` the fault of a read is recorded (R22). -/
def State.RecordsReadFault (s t : State) : Prop :=
  ∃ busy done err : Bool, t.observed = .readUnwritten busy done err :: s.observed

theorem State.not_recordsReadFault {s t : State} (h : t.observed = s.observed) : ¬ s.RecordsReadFault t := by
  rintro ⟨busy, done, err, hcons⟩
  exact List.cons_ne_self _ _ (hcons.symm.trans h)

/-- Under the invariant K is at most 10 while BUSY, so the CORE's step answers. -/
theorem State.Inv.coreStep_answers {s : State} (h : s.Inv) : ∃ t, coreStep s = .next t ∧ ¬ s.RecordsReadFault t := by
  by_cases hbusy : s.phase = .busy
  · have hk : s.k.toNat < 11 := Nat.lt_succ_of_le h.k_le
    refine ⟨_, coreStep_runs hbusy hk, State.not_recordsReadFault ?_⟩
    rcases roundStep_cases s.readDir s.readSched ⟨s.k.toNat, hk⟩ s.readBlk s with ⟨_, e⟩ | ⟨_, e⟩ <;> simp [e]
  · exact ⟨s, coreStep_not_busy hbusy, State.not_recordsReadFault rfl⟩

@[simp] theorem acceptedEffect_observed (i : Instr) (s : State) : (acceptedEffect i s).observed = s.observed := by
  cases i <;> rfl

@[simp] theorem acceptedEffect_agenda (i : Instr) (s : State) : (acceptedEffect i s).agenda = s.agenda := by
  cases i <;> rfl

/-- A HOST step on the ports always answers, and reads nothing. -/
theorem drivePorts_answers (p : InPorts) (s : State) : ∃ t, drivePorts p s = .next t ∧ ¬ s.RecordsReadFault t := by
  obtain ⟨t, ht⟩ := drivePorts_next p s
  refine ⟨t, ht, State.not_recordsReadFault ?_⟩
  rcases drivePorts_cases ht with ⟨_, rfl⟩ | ⟨_, rfl⟩ | ⟨_, _, _, rfl⟩ <;> simp

/-- A step that takes no Read answers, and records no fault of a read. -/
theorem State.Inv.step_answers {s : State} (h : s.Inv) (hread : ∀ rest, s.agenda ≠ .read :: rest) :
    ∃ t, step s = .next t ∧ ¬ s.RecordsReadFault t := by
  rcases ha : s.agenda with _ | ⟨turn, rest⟩
  case nil =>
    rw [step_empty ha]
    exact h.coreStep_answers
  case cons =>
    cases turn with
    | core =>
      rw [step_core ha]
      exact (h.withAgenda rest).coreStep_answers
    | drive p =>
      rw [step_drive ha]
      exact drivePorts_answers p (s.withAgenda rest)
    | wait =>
      cases hbusy : s.busy with
      | true =>
        rw [step_wait_busy ha hbusy]
        exact h.coreStep_answers
      | false => exact ⟨_, step_wait_done ha hbusy, State.not_recordsReadFault rfl⟩
    | read => exact absurd ha (hread rest)
    | status =>
      rw [step_status ha]
      exact ⟨_, rfl, by simp [State.RecordsReadFault]⟩

/-- A Read answers, and records the fault exactly while DOUT holds no value. -/
theorem step_read_answers {s : State} {rest : List Turn} (ha : s.agenda = .read :: rest) :
    ∃ t, step s = .next t ∧ (s.RecordsReadFault t ↔ s.dout = none) := by
  rw [step_read ha]
  cases hdout : s.dout with
  | none => exact ⟨_, hostRead_unwritten (s := s.withAgenda rest) hdout, by simp [State.RecordsReadFault]⟩
  | some b => exact ⟨_, hostRead_written (s := s.withAgenda rest) hdout, by simp [State.RecordsReadFault]⟩

/-- Settles O46: a Read always answers, and the invariant makes every other turn answer. -/
theorem noStepStopsUnderTheInvariant : Obligations.NoStepStopsUnderTheInvariant := by
  intro s hinv
  by_cases hread : ∃ rest, s.agenda = .read :: rest
  · obtain ⟨rest, ha⟩ := hread
    obtain ⟨t, ht, hiff⟩ := step_read_answers ha
    exact ⟨t, ht, hiff.trans (and_iff_left ⟨rest, ha⟩).symm⟩
  · obtain ⟨t, ht, hno⟩ := hinv.step_answers (not_exists.mp hread)
    exact ⟨t, ht, iff_of_false hno fun ⟨_, h⟩ => hread h⟩

end Sys2Proof.Machine
end

section
/-! PROOFS. The operation in progress (spec/10_state.md R10, R11, R15, R16), settling O44: its block after eleven round steps is the command's result, and each kind of step keeps it on course. -/

namespace Sys2Proof.Machine

/-- The rounds 1 to 9 in the order of Encrypt. -/
def fullRounds : List Round := [1, 2, 3, 4, 5, 6, 7, 8, 9]

theorem encrypt_eq_foldl (key pt : Block) :
    encrypt key pt = encFinalRound (keyExpansion key)
      (fullRounds.foldl (fun s r => encFullRound (keyExpansion key) r s) (encInitialRound (keyExpansion key) pt)) := by
  simp only [encrypt, encInitialRound, encFullRound, encFinalRound, fullRounds]

theorem decrypt_eq_foldl (key ct : Block) :
    decrypt key ct = decFinalRound (keyExpansion key)
      (fullRounds.reverse.foldl (fun s r => decFullRound (keyExpansion key) r s)
        (decInitialRound (keyExpansion key) ct)) := by
  simp only [decrypt, decInitialRound, decFullRound, decFinalRound, fullRounds, List.reverse_cons, List.reverse_nil,
    List.nil_append, List.cons_append]

/-- Taking a block through the eleven round steps is R73's Encrypt or R74's Decrypt. The schedule becomes a variable, so
that nothing evaluates the key expansion. -/
theorem blockAtRound_eleven (d : Direction) (key din : Port) :
    blockAtRound d (keyExpansion (blockOfPort key)) (blockOfPort din) 11 = cipherResult d key din := by
  cases d with
  | forward =>
    rw [cipherResult, encrypt_eq_foldl]
    generalize keyExpansion (blockOfPort key) = sc
    rfl
  | inverse =>
    rw [cipherResult, decrypt_eq_foldl]
    generalize keyExpansion (blockOfPort key) = sc
    rfl

/-- A HOST step that drives the mode of direction d on an idle core accepts that command. -/
theorem acceptedCommand_drive {d : Direction} {p : InPorts} {rest : List Turn} {s : State}
    (ha : s.agenda = .drive p :: rest) (hrst : p.rst = false) (hstart : p.start = true) (hidle : s.phase = .idle)
    (hmode : p.mode = d.modeCode) : s.acceptedCommand = some (d, p.key, p.din) := by
  cases d <;> simp [State.acceptedCommand, ha, hidle, hrst, hstart, hmode, Direction.modeCode, Config.modeEnc,
    Config.modeDec]

section OnCourse

variable {d : Direction} {key din : Port} {s : State}

/-- The accept step puts the operation at its entry (R72). -/
theorem State.onCourse_accept (s : State) : (s.clearDone.accept d key din).OnCourse d key din :=
  ⟨fun _ => ⟨rfl, rfl, rfl⟩, by simp⟩

theorem State.onCourse_resetStep (s : State) : s.resetStep.OnCourse d key din := by
  constructor <;> simp

theorem State.onCourse_raiseInvalidMode (s : State) : s.clearDone.raiseInvalidMode.OnCourse d key din := by
  constructor <;> simp

/-- While BUSY, the round step at K = r takes the block of round r to that of round r + 1. -/
theorem State.OnCourse.roundBlock_eq (h : s.OnCourse d key din) (hbusy : s.phase = .busy) {r : Round}
    (hk : s.k.toNat = r.val) :
    roundBlock s.readDir s.readSched r s.readBlk =
      blockAtRound d (keyExpansion (blockOfPort key)) (blockOfPort din) (r.val + 1) := by
  obtain ⟨hdir, hsched, hblk⟩ := h.operation hbusy
  rw [State.readDir_written hdir, State.readSched_written hsched, State.readBlk_written hblk, blockAtRound_succ, hk]

theorem State.OnCourse.advance (h : s.OnCourse d key din) (hbusy : s.phase = .busy) {r : Round}
    (hk : s.k.toNat = r.val) (hr : r.val < 10) :
    (s.advance (roundBlock s.readDir s.readSched r s.readBlk)).OnCourse d key din := by
  obtain ⟨hdir, hsched, _⟩ := h.operation hbusy
  have hsucc : (s.k + 1).toNat = r.val + 1 := by rw [k_succ_toNat (hk.trans_lt hr), hk]
  rw [h.roundBlock_eq hbusy hk]
  exact ⟨fun _ => ⟨hdir, hsched, by rw [State.advance_blk, State.advance_k, hsucc]⟩, h.result⟩

/-- At K = 10 the round step gives the command's result. -/
theorem State.OnCourse.roundBlock_last (h : s.OnCourse d key din) (hbusy : s.phase = .busy) (hk : s.k = 10) :
    roundBlock s.readDir s.readSched 10 s.readBlk = cipherResult d key din := by
  rw [h.roundBlock_eq hbusy (by rw [hk]; rfl), ← blockAtRound_eleven]
  rfl

theorem State.OnCourse.complete (h : s.OnCourse d key din) (hbusy : s.phase = .busy) (hk : s.k = 10) :
    (s.complete (roundBlock s.readDir s.readSched 10 s.readBlk)).OnCourse d key din := by
  rw [h.roundBlock_last hbusy hk]
  exact ⟨by simp, fun _ => rfl⟩

/-- (1) The accepting step answers the operation at its entry. -/
theorem step_accepts_onCourse (h : s.acceptedCommand = some (d, key, din)) :
    ∃ t : State, step s = .next t ∧ t.OnCourse d key din ∧ t.phase = .busy ∧ t.k = 0 ∧ t.done = false ∧
      t.dout = s.dout := by
  obtain ⟨_, p, rest, _, _, _, _, _, _, hstep⟩ := acceptedCommand_cases h
  exact ⟨_, hstep, State.onCourse_accept _, rfl, rfl, rfl, rfl⟩

/-- (2) A step that accepts no other valid command keeps the state on course. -/
theorem Transition.onCourse {t : State} (htrans : Transition s t) (h : s.OnCourse d key din)
    (hnone : s.acceptedCommand = none) : t.OnCourse d key din := by
  cases htrans with
  | keepRegisters => exact ⟨h.operation, h.result⟩
  | advance ts r hts hbusy hk hr => exact (h.withAgenda ts).advance hbusy hk hr
  | complete ts hts hbusy hk => exact (h.withAgenda ts).complete hbusy hk
  | reset => exact State.onCourse_resetStep _
  | accept d' p rest ha hrst hstart hidle hmode =>
    rw [acceptedCommand_drive ha hrst hstart hidle hmode] at hnone
    cases hnone
  | raise => exact State.onCourse_raiseInvalidMode _

/-- (3) While BUSY a step goes on, completes, or is a Reset step. -/
theorem Transition.busy_cases {t : State} (htrans : Transition s t) (h : s.OnCourse d key din)
    (hbusy : s.phase = .busy) :
    (t.phase = .busy ∧ t.dout = s.dout ∧ t.done = s.done ∧ (t.k = s.k ∨ t.k = s.k + 1)) ∨
      (s.k = 10 ∧ t.phase = .idle ∧ t.k = 0 ∧ t.done = true ∧ t.dout = some (cipherResult d key din)) ∨
      (t.phase = .idle ∧ t.done = false ∧ t.dout = none ∧
        ∃ (p : InPorts) (rest : List Turn), s.agenda = .drive p :: rest ∧ p.rst = true) := by
  cases htrans with
  | keepRegisters => exact .inl ⟨hbusy, rfl, rfl, .inl rfl⟩
  | advance => exact .inl ⟨hbusy, rfl, rfl, .inr rfl⟩
  | complete ts hts _ hk =>
    exact .inr (.inl ⟨hk, rfl, rfl, rfl, congrArg some (h.roundBlock_last hbusy hk)⟩)
  | reset p rest ha hrst => exact .inr (.inr ⟨rfl, rfl, rfl, p, rest, ha, hrst⟩)
  | accept d' p rest ha hrst hstart hidle => simp [hidle] at hbusy
  | raise p rest ha hidle => simp [hidle] at hbusy

end OnCourse

/-- Settles O44: its three parts, from the accept step and from the six kinds of step. -/
theorem stepKeepsTheOperationOnCourse : Obligations.StepKeepsTheOperationOnCourse :=
  fun _ _ _ _ => ⟨step_accepts_onCourse, fun _ hcourse hstep =>
    ⟨(Transition.of_step hstep).onCourse hcourse, (Transition.of_step hstep).busy_cases hcourse⟩⟩

end Sys2Proof.Machine
end

section
/-! PROOFS. Control against data (spec/70_reset_and_hazards.md R99), settling O53: each update of the registers, so the CORE's step and each HOST step, takes states that differ in data alone to such states. -/

namespace Sys2Proof.Machine

/-- The two states differ in data alone: the same control, and the same turns to come but for key and din. -/
def State.SameButData (s s' : State) : Prop :=
  s.control = s'.control ∧ s.agenda.map Turn.withoutData = s'.agenda.map Turn.withoutData

/-- Where the first outcome is a next state, the second is one that differs from it in data alone. -/
def Lockstep (o o' : Host.Outcome State Fault Refusal) : Prop :=
  ∀ t, o = .next t → ∃ t', o' = .next t' ∧ t.SameButData t'

theorem State.SameButData.lockstep {s s' : State} (h : s.SameButData s') : Lockstep (.next s) (.next s') := by
  rintro _ ⟨⟩
  exact ⟨s', rfl, h⟩

/-- Differing in data alone, field by field. -/
theorem State.sameButData_iff (s s' : State) :
    s.SameButData s' ↔ (s.phase = s'.phase ∧ s.k = s'.k ∧ s.dir = s'.dir ∧ s.busy = s'.busy ∧
      s.done = s'.done ∧ s.err = s'.err ∧ s.blk.isSome = s'.blk.isSome ∧ s.sched.isSome = s'.sched.isSome ∧
      s.dout.isSome = s'.dout.isSome) ∧ s.agenda.map Turn.withoutData = s'.agenda.map Turn.withoutData := by
  simp only [State.SameButData, State.control, Prod.mk.injEq]

/-- A Read always answers, with an observation. -/
theorem hostRead_observes (s : State) : ∃ o, hostRead s = .next (s.observe o) := by
  cases hdout : s.dout with
  | none => exact ⟨_, hostRead_unwritten hdout⟩
  | some b => exact ⟨_, hostRead_written hdout⟩

section SameButData

variable {s s' : State} (h : s.SameButData s')

include h

theorem State.SameButData.phase_eq : s.phase = s'.phase := by
  obtain ⟨⟨hphase, -⟩, -⟩ := (State.sameButData_iff s s').mp h
  exact hphase

theorem State.SameButData.k_eq : s.k = s'.k := by
  obtain ⟨⟨-, hk, -⟩, -⟩ := (State.sameButData_iff s s').mp h
  exact hk

theorem State.SameButData.busy_eq : s.busy = s'.busy := by
  obtain ⟨⟨-, -, -, hbusy, -⟩, -⟩ := (State.sameButData_iff s s').mp h
  exact hbusy

theorem State.SameButData.withAgenda {ts ts' : List Turn}
    (hts : ts.map Turn.withoutData = ts'.map Turn.withoutData) : (s.withAgenda ts).SameButData (s'.withAgenda ts') :=
  ⟨h.1, hts⟩

theorem State.SameButData.observe (o o' : Observation) : (s.observe o).SameButData (s'.observe o') := h

theorem State.SameButData.resetStep : s.resetStep.SameButData s'.resetStep := ⟨rfl, h.2⟩

theorem State.SameButData.clearDone : s.clearDone.SameButData s'.clearDone := by
  simp_all [State.sameButData_iff]

theorem State.SameButData.advance (b b' : Block) : (s.advance b).SameButData (s'.advance b') := by
  simp_all [State.sameButData_iff]

theorem State.SameButData.complete (b b' : Block) : (s.complete b).SameButData (s'.complete b') := by
  simp_all [State.sameButData_iff]

theorem State.SameButData.accept (d : Direction) (key key' din din' : Port) :
    (s.accept d key din).SameButData (s'.accept d key' din') := by
  simp_all [State.sameButData_iff]

theorem State.SameButData.raiseInvalidMode : s.raiseInvalidMode.SameButData s'.raiseInvalidMode := by
  simp_all [State.sameButData_iff]

/-- The round step that K selects depends on the data in the block it writes alone. -/
theorem State.SameButData.coreStep : Lockstep (coreStep s) (coreStep s') := by
  intro t ht
  rcases coreStep_next ht with ⟨hnot, rfl⟩ | ⟨hbusy, hlt, rfl⟩
  case inl => exact ⟨s', coreStep_not_busy (h.phase_eq ▸ hnot), h⟩
  case inr =>
    have hlt' : s'.k.toNat < 11 := h.k_eq ▸ hlt
    have hround : (⟨s'.k.toNat, hlt'⟩ : Round) = ⟨s.k.toNat, hlt⟩ :=
      Fin.ext (congrArg BitVec.toNat h.k_eq.symm)
    refine ⟨_, coreStep_runs (h.phase_eq ▸ hbusy) hlt', ?_⟩
    rw [hround]
    by_cases hr : (⟨s.k.toNat, hlt⟩ : Round) = 10
    · rw [hr, roundStep_last, roundStep_last]
      exact h.complete _ _
    · rw [roundStep_lt hr, roundStep_lt hr]
      exact h.advance _ _

/-- Which effect an accepted command has is a matter of its mode. -/
theorem State.SameButData.acceptedEffect (mode : Mode) (key key' din din' : Port) :
    (acceptedEffect (decodeFields mode key din) s).SameButData
      (acceptedEffect (decodeFields mode key' din') s') := by
  rcases decodeFields_cases mode key din with ⟨rfl, _⟩ | ⟨rfl, _⟩ | ⟨rfl, _⟩ | ⟨rfl, _⟩
  · exact h.accept .forward key key' din din'
  · exact h.accept .inverse key key' din din'
  · exact h.raiseInvalidMode
  · exact h.raiseInvalidMode

/-- A command is accepted by both or ignored by both. -/
theorem State.SameButData.exec (mode : Mode) (key key' din din' : Port) :
    Lockstep (exec (decodeFields mode key din) s) (exec (decodeFields mode key' din') s') := by
  by_cases hidle : s.phase = .idle
  · rw [exec_idle hidle, exec_idle (h.phase_eq ▸ hidle)]
    exact (h.clearDone.acceptedEffect mode key key' din din').lockstep
  · rw [exec_ignored hidle, exec_ignored (h.phase_eq ▸ hidle)]
    exact h.lockstep

/-- A HOST step on the ports, whatever key and din they hold. -/
theorem State.SameButData.drivePorts {p p' : InPorts} (hrst : p.rst = p'.rst) (hstart : p.start = p'.start)
    (hmode : p.mode = p'.mode) : Lockstep (drivePorts p s) (drivePorts p' s') := by
  cases hr : p.rst with
  | true =>
    rw [drivePorts_reset hr, drivePorts_reset (hrst ▸ hr)]
    exact h.resetStep.lockstep
  | false =>
    cases hs : p.start with
    | true =>
      rw [drivePorts_start hr hs, drivePorts_start (hrst ▸ hr) (hstart ▸ hs), ← hmode]
      exact h.exec p.mode p.key p'.key p.din p'.din
    | false =>
      rw [drivePorts_nop hr hs, drivePorts_nop (hrst ▸ hr) (hstart ▸ hs)]
      exact h.lockstep

theorem State.SameButData.hostRead : Lockstep (hostRead s) (hostRead s') := by
  obtain ⟨o, ho⟩ := hostRead_observes s
  obtain ⟨o', ho'⟩ := hostRead_observes s'
  rw [ho, ho']
  exact (h.observe o o').lockstep

end SameButData

/-- Turns that agree without their data are the same turn, or drive the ports with the same rst, start and mode. -/
theorem Turn.withoutData_eq_cases {u u' : Turn} (h : u.withoutData = u'.withoutData) :
    u = u' ∨ ∃ p p', u = .drive p ∧ u' = .drive p' ∧ p.rst = p'.rst ∧ p.start = p'.start ∧ p.mode = p'.mode := by
  cases u <;> cases u' <;> simp_all [Turn.withoutData]

/-- The step of each kind of turn, the two turns agreeing without their data. -/
theorem State.SameButData.step_cons {s s' : State} (h : s.SameButData s') {u u' : Turn} {rest rest' : List Turn}
    (ha : s.agenda = u :: rest) (ha' : s'.agenda = u' :: rest') : Lockstep (step s) (step s') := by
  obtain ⟨hu, hrest⟩ : u.withoutData = u'.withoutData ∧ rest.map Turn.withoutData = rest'.map Turn.withoutData := by
    simpa [ha, ha'] using h.2
  have hr := h.withAgenda hrest
  rcases Turn.withoutData_eq_cases hu with rfl | ⟨p, p', rfl, rfl, hrst, hstart, hmode⟩
  case inr =>
    rw [step_drive ha, step_drive ha']
    exact hr.drivePorts hrst hstart hmode
  case inl =>
    cases u with
    | core =>
      rw [step_core ha, step_core ha']
      exact hr.coreStep
    | drive p =>
      rw [step_drive ha, step_drive ha']
      exact hr.drivePorts rfl rfl rfl
    | wait =>
      cases hbusy : s.busy with
      | true =>
        rw [step_wait_busy ha hbusy, step_wait_busy ha' (h.busy_eq ▸ hbusy)]
        exact h.coreStep
      | false =>
        rw [step_wait_done ha hbusy, step_wait_done ha' (h.busy_eq ▸ hbusy)]
        exact hr.lockstep
    | read =>
      rw [step_read ha, step_read ha']
      exact hr.hostRead
    | status =>
      rw [step_status ha, step_status ha']
      exact (hr.observe _ _).lockstep

theorem State.SameButData.step {s s' : State} (h : s.SameButData s') : Lockstep (step s) (step s') := by
  rcases ha : s.agenda with _ | ⟨u, rest⟩
  case nil =>
    have ha' : s'.agenda = [] := by simpa [ha] using h.2.symm
    rw [step_empty ha, step_empty ha']
    exact h.coreStep
  case cons =>
    obtain ⟨u', rest', ha', -⟩ := List.map_eq_cons_iff.mp (show s'.agenda.map Turn.withoutData = _ :: _ from
      h.2.symm.trans (by rw [ha, List.map_cons]))
    exact h.step_cons ha ha'

/-- Settles O53: a step takes states that differ in data alone in lockstep. -/
theorem controlNeverDependsOnKeyOrBlock : Obligations.ControlNeverDependsOnKeyOrBlock :=
  fun _ _ t hcontrol hagenda hstep => State.SameButData.step ⟨hcontrol, hagenda⟩ t hstep

end Sys2Proof.Machine
end

section
/-! PROOFS. The byte transforms and the round keys (spec/41_keyschedule.md R54, 42_subbytes.md R57 to R61, 43_shiftrows.md R62, R63), settling O9, O11, O12, O13 and O15: position by position from the state-byte lemmas, and over all bytes where a table is asked for. -/

namespace Sys2Proof.Machine

/-- R34: column c of round key r is word 4r + c of the schedule. -/
theorem column_roundKey (sc : Schedule) (r : Round) (c : Fin 4) :
    column (roundKey sc r) c = scheduleWord sc ⟨4 * r.val + c.val, by omega⟩ := by
  ext j hj : 1
  have hpos : 16 * r.val + (4 * c.val + j) = 4 * (4 * r.val + c.val) + j := by omega
  rw [column_getElem, scheduleWord_getElem, stateByte, Fin.getElem_fin, roundKey_getElem]
  simp only [bytePos, hpos]

/-- Two blocks with the same columns are equal. -/
theorem block_ext_column {b x : Block} (h : ∀ c, column b c = column x c) : b = x := by
  refine block_ext fun r c => ?_
  have hrow := congrArg (fun w : Word => w[r]) (h c)
  simpa only [Fin.getElem_fin, column_getElem] using hrow

/-- Settles O9: round key 0 has the first four words of the schedule, which are the key's. -/
theorem roundKeyIsFourScheduleWords : Obligations.RoundKeyIsFourScheduleWords := by
  refine ⟨column_roundKey, fun key => block_ext_column fun c => ?_⟩
  rw [column_roundKey, ← scheduleWord_keyExpansion_key]
  congr 2
  simp

/-- The inverse of the affine map of R58. -/
def affineMapInv (b : Byte) : Byte := b.rotateLeft 1 ^^^ b.rotateLeft 3 ^^^ b.rotateLeft 6 ^^^ 0x05#8

theorem affineMap_affineMapInv : ∀ b : Byte, affineMap (affineMapInv b) = b := by decide +kernel

/-- Each SBOX entry, taken back through the affine map, is the field inverse (R58). -/
theorem gfMul_affineMapInv_sbox : ∀ v : Byte, v ≠ 0 → gfMul v (affineMapInv (sbox v)) = 1 := by decide +kernel

theorem invSbox_eq_iff (v w : Byte) : invSbox v = w ↔ sbox w = v := by
  constructor
  · rintro rfl
    exact sbox_invSbox v
  · rintro rfl
    exact invSbox_sbox w

/-- Settles O11: the field inverse of v is the byte whose affine map SBOX[v] is. -/
theorem sboxEntriesAreAffineOfFieldInverse : Obligations.SboxEntriesAreAffineOfFieldInverse :=
  ⟨by decide +kernel,
    fun v hv => ⟨affineMapInv (sbox v), gfMul_affineMapInv_sbox v hv, (affineMap_affineMapInv (sbox v)).symm⟩,
    invSbox_eq_iff⟩

@[simp] theorem invSubBytes_subBytes (b : Block) : invSubBytes (subBytes b) = b := by
  ext n hn : 1
  rw [invSubBytes_getElem, subBytes_getElem, invSbox_sbox]

@[simp] theorem subBytes_invSubBytes (b : Block) : subBytes (invSubBytes b) = b := by
  ext n hn : 1
  rw [subBytes_getElem, invSubBytes_getElem, sbox_invSbox]

/-- Settles O12: the two tables undo each other at every position. -/
theorem invSubBytesUndoesSubBytes : Obligations.InvSubBytesUndoesSubBytes :=
  fun b => ⟨invSubBytes_subBytes b, subBytes_invSubBytes b⟩

theorem subBytes_shiftRows (b : Block) : subBytes (shiftRows b) = shiftRows (subBytes b) :=
  block_ext fun r c => by rw [stateByte_subBytes, stateByte_shiftRows, stateByte_shiftRows, stateByte_subBytes]

theorem invSubBytes_invShiftRows (b : Block) : invSubBytes (invShiftRows b) = invShiftRows (invSubBytes b) :=
  block_ext fun r c => by
    rw [stateByte_invSubBytes, stateByte_invShiftRows, stateByte_invShiftRows, stateByte_invSubBytes]

/-- Settles O13: at each position both sides are SBOX of the byte moved there. -/
theorem subBytesCommutesWithByteMoves : Obligations.SubBytesCommutesWithByteMoves := by
  refine ⟨fun f b => ?_, subBytes_shiftRows, invSubBytes_invShiftRows⟩
  ext n hn : 1
  rw [subBytes_getElem, Vector.getElem_ofFn, Vector.getElem_ofFn, Fin.getElem_fin, Fin.getElem_fin, subBytes_getElem]

@[simp] theorem invShiftRows_shiftRows (b : Block) : invShiftRows (shiftRows b) = b :=
  block_ext fun r c => by rw [stateByte_invShiftRows, stateByte_shiftRows, sub_add_cancel]

@[simp] theorem shiftRows_invShiftRows (b : Block) : shiftRows (invShiftRows b) = b :=
  block_ext fun r c => by rw [stateByte_shiftRows, stateByte_invShiftRows, add_sub_cancel_right]

/-- Four ShiftRows move row r by 4r places, which is none (R62). -/
theorem shiftRows_four (b : Block) : shiftRows (shiftRows (shiftRows (shiftRows b))) = b := by
  have hturn : ∀ r c : Fin 4, c + r + r + r + r = c := by decide
  exact block_ext fun r c => by
    rw [stateByte_shiftRows, stateByte_shiftRows, stateByte_shiftRows, stateByte_shiftRows, hturn]

/-- Settles O15: column c goes to c + r and back. -/
theorem invShiftRowsUndoesShiftRows : Obligations.InvShiftRowsUndoesShiftRows :=
  fun b => ⟨invShiftRows_shiftRows b, shiftRows_invShiftRows b, shiftRows_four b⟩

end Sys2Proof.Machine
end

section
/-! PROOFS. The column mix (spec/44_mixcolumns.md R64 to R70), settling O16, O17, O18 and O20: xtime is linear over XOR, so the multipliers and the columns are, and each inverse law is an identity of XOR sums. -/

namespace Sys2Proof.Machine

/-- xtime with its reduction as a term of an XOR sum (R64). -/
theorem xtime_eq_xor (a : Byte) : xtime a = a <<< 1 ^^^ if a.getLsbD 7 then 0x1b#8 else 0#8 := by
  unfold xtime
  split <;> simp

@[simp] theorem xtime_xor (a b : Byte) : xtime (a ^^^ b) = xtime a ^^^ xtime b := by
  have hreduce (p q : Bool) : (if (p ^^ q) = true then 0x1b#8 else 0#8) =
      (if p = true then 0x1b#8 else 0#8) ^^^ if q = true then 0x1b#8 else 0#8 := by
    cases p <;> cases q <;> decide
  rw [xtime_eq_xor, xtime_eq_xor, xtime_eq_xor, BitVec.shiftLeft_xor_distrib, BitVec.getLsbD_xor, hreduce]
  ac_rfl

/-- xtime is undone by the product with 0x8d, the inverse of 2 in GF(2^8). -/
theorem gfMul_xtime : ∀ a : Byte, gfMul (xtime a) 0x8d = a := by decide +kernel

theorem xtime_gfMul : ∀ a : Byte, xtime (gfMul a 0x8d) = a := by decide +kernel

/-- Settles O16: the definition's two cases, linearity, and the inverse map of xtime. -/
theorem xtimeIsLinearAndBijective : Obligations.XtimeIsLinearAndBijective :=
  ⟨fun _ => rfl, xtime_xor,
    Function.bijective_iff_has_inverse.mpr ⟨fun a => gfMul a 0x8d, gfMul_xtime, xtime_gfMul⟩⟩

theorem mul1_eq_gfMul : ∀ a : Byte, mul1 a = gfMul a 1 := by decide +kernel

/-- Settles O17: each multiplier is the product by its coefficient, and row i of either matrix is written out. -/
theorem mixColumnIsTheCirculantProduct : Obligations.MixColumnIsTheCirculantProduct := by
  intro a i
  simp only [mixColumn, invMixColumn, mul1_eq_gfMul, mul2_eq_gfMul, mul3_eq_gfMul, mul9_eq_gfMul, mul11_eq_gfMul,
    mul13_eq_gfMul, mul14_eq_gfMul]
  fin_cases i <;> exact ⟨rfl, rfl⟩

section Multipliers

variable (a b : Byte)

@[simp] theorem mul2_xor : mul2 (a ^^^ b) = mul2 a ^^^ mul2 b := xtime_xor a b

@[simp] theorem mul3_xor : mul3 (a ^^^ b) = mul3 a ^^^ mul3 b := by
  simp only [mul3, xtime_xor]
  ac_rfl

@[simp] theorem mul9_xor : mul9 (a ^^^ b) = mul9 a ^^^ mul9 b := by
  simp only [mul9, xtime_xor]
  ac_rfl

@[simp] theorem mul11_xor : mul11 (a ^^^ b) = mul11 a ^^^ mul11 b := by
  simp only [mul11, xtime_xor]
  ac_rfl

@[simp] theorem mul13_xor : mul13 (a ^^^ b) = mul13 a ^^^ mul13 b := by
  simp only [mul13, xtime_xor]
  ac_rfl

@[simp] theorem mul14_xor : mul14 (a ^^^ b) = mul14 a ^^^ mul14 b := by
  simp only [mul14, xtime_xor]
  ac_rfl

end Multipliers

/-- The first row of MixColumn's matrix, [2, 3, 1, 1] (R67). -/
def mixRow (a b c d : Byte) : Byte := mul2 a ^^^ mul3 b ^^^ mul1 c ^^^ mul1 d

/-- The first row of InvMixColumn's matrix, [14, 11, 13, 9] (R68). -/
def invMixRow (a b c d : Byte) : Byte := mul14 a ^^^ mul11 b ^^^ mul13 c ^^^ mul9 d

/-- The matrices are circulant: each output is the first row on the column, rotated. -/
theorem mixColumn_eq_rows (a : Word) :
    mixColumn a = #v[mixRow a[0] a[1] a[2] a[3], mixRow a[1] a[2] a[3] a[0], mixRow a[2] a[3] a[0] a[1],
      mixRow a[3] a[0] a[1] a[2]] := by
  unfold mixColumn mixRow
  ext j hj : 1
  interval_cases j
  · rfl
  all_goals
    simp only [Vector.getElem_mk, List.getElem_toArray, List.getElem_cons_succ, List.getElem_cons_zero]
    ac_rfl

theorem invMixColumn_eq_rows (a : Word) :
    invMixColumn a = #v[invMixRow a[0] a[1] a[2] a[3], invMixRow a[1] a[2] a[3] a[0], invMixRow a[2] a[3] a[0] a[1],
      invMixRow a[3] a[0] a[1] a[2]] := by
  unfold invMixColumn invMixRow
  ext j hj : 1
  interval_cases j
  · rfl
  all_goals
    simp only [Vector.getElem_mk, List.getElem_toArray, List.getElem_cons_succ, List.getElem_cons_zero]
    ac_rfl

/-- The product of the two first rows, coefficient by coefficient: 1, 0, 0, 0 (R68). -/
theorem invMixRow_mixRow_coefficients : ∀ x : Byte,
    mul14 (mul2 x) ^^^ mul11 x ^^^ mul13 x ^^^ mul9 (mul3 x) = x ∧
      mul14 (mul3 x) ^^^ mul11 (mul2 x) ^^^ mul13 x ^^^ mul9 x = 0 ∧
      mul14 x ^^^ mul11 (mul3 x) ^^^ mul13 (mul2 x) ^^^ mul9 x = 0 ∧
      mul14 x ^^^ mul11 x ^^^ mul13 (mul3 x) ^^^ mul9 (mul2 x) = 0 := by decide +kernel

theorem invMixRow_mixRow (a b c d : Byte) :
    invMixRow (mixRow a b c d) (mixRow b c d a) (mixRow c d a b) (mixRow d a b c) = a := by
  obtain ⟨ha, -⟩ := invMixRow_mixRow_coefficients a
  obtain ⟨-, hb, -⟩ := invMixRow_mixRow_coefficients b
  obtain ⟨-, -, hc, -⟩ := invMixRow_mixRow_coefficients c
  obtain ⟨-, -, -, hd⟩ := invMixRow_mixRow_coefficients d
  calc invMixRow (mixRow a b c d) (mixRow b c d a) (mixRow c d a b) (mixRow d a b c)
    _ = (mul14 (mul2 a) ^^^ mul11 a ^^^ mul13 a ^^^ mul9 (mul3 a)) ^^^
          (mul14 (mul3 b) ^^^ mul11 (mul2 b) ^^^ mul13 b ^^^ mul9 b) ^^^
          (mul14 c ^^^ mul11 (mul3 c) ^^^ mul13 (mul2 c) ^^^ mul9 c) ^^^
          (mul14 d ^^^ mul11 d ^^^ mul13 (mul3 d) ^^^ mul9 (mul2 d)) := by
      simp only [invMixRow, mixRow, mul1, mul9_xor, mul11_xor, mul13_xor, mul14_xor]
      ac_rfl
    _ = a := by rw [ha, hb, hc, hd]; simp

/-- Likewise with the two rows exchanged. -/
theorem mixRow_invMixRow_coefficients : ∀ x : Byte,
    mul2 (mul14 x) ^^^ mul3 (mul9 x) ^^^ mul13 x ^^^ mul11 x = x ∧
      mul2 (mul11 x) ^^^ mul3 (mul14 x) ^^^ mul9 x ^^^ mul13 x = 0 ∧
      mul2 (mul13 x) ^^^ mul3 (mul11 x) ^^^ mul14 x ^^^ mul9 x = 0 ∧
      mul2 (mul9 x) ^^^ mul3 (mul13 x) ^^^ mul11 x ^^^ mul14 x = 0 := by decide +kernel

theorem mixRow_invMixRow (a b c d : Byte) :
    mixRow (invMixRow a b c d) (invMixRow b c d a) (invMixRow c d a b) (invMixRow d a b c) = a := by
  obtain ⟨ha, -⟩ := mixRow_invMixRow_coefficients a
  obtain ⟨-, hb, -⟩ := mixRow_invMixRow_coefficients b
  obtain ⟨-, -, hc, -⟩ := mixRow_invMixRow_coefficients c
  obtain ⟨-, -, -, hd⟩ := mixRow_invMixRow_coefficients d
  calc mixRow (invMixRow a b c d) (invMixRow b c d a) (invMixRow c d a b) (invMixRow d a b c)
    _ = (mul2 (mul14 a) ^^^ mul3 (mul9 a) ^^^ mul13 a ^^^ mul11 a) ^^^
          (mul2 (mul11 b) ^^^ mul3 (mul14 b) ^^^ mul9 b ^^^ mul13 b) ^^^
          (mul2 (mul13 c) ^^^ mul3 (mul11 c) ^^^ mul14 c ^^^ mul9 c) ^^^
          (mul2 (mul9 d) ^^^ mul3 (mul13 d) ^^^ mul11 d ^^^ mul14 d) := by
      simp only [invMixRow, mixRow, mul1, mul2_xor, mul3_xor]
      ac_rfl
    _ = a := by rw [ha, hb, hc, hd]; simp

theorem invMixColumn_mixColumn (c : Word) : invMixColumn (mixColumn c) = c := by
  rw [invMixColumn_eq_rows, mixColumn_eq_rows]
  ext j hj : 1
  interval_cases j <;> exact invMixRow_mixRow _ _ _ _

theorem mixColumn_invMixColumn (c : Word) : mixColumn (invMixColumn c) = c := by
  rw [mixColumn_eq_rows, invMixColumn_eq_rows]
  ext j hj : 1
  interval_cases j <;> exact mixRow_invMixRow _ _ _ _

/-- Settles O18: either composition is an XOR sum in which all terms but one cancel. -/
theorem invMixColumnUndoesMixColumn : Obligations.InvMixColumnUndoesMixColumn :=
  fun c => ⟨invMixColumn_mixColumn c, mixColumn_invMixColumn c⟩

theorem mixRow_xor (a b c d a' b' c' d' : Byte) :
    mixRow (a ^^^ a') (b ^^^ b') (c ^^^ c') (d ^^^ d') = mixRow a b c d ^^^ mixRow a' b' c' d' := by
  simp only [mixRow, mul1, mul2_xor, mul3_xor]
  ac_rfl

theorem invMixRow_xor (a b c d a' b' c' d' : Byte) :
    invMixRow (a ^^^ a') (b ^^^ b') (c ^^^ c') (d ^^^ d') = invMixRow a b c d ^^^ invMixRow a' b' c' d' := by
  simp only [invMixRow, mul9_xor, mul11_xor, mul13_xor, mul14_xor]
  ac_rfl

theorem mixColumn_xorWord (u v : Word) : mixColumn (xorWord u v) = xorWord (mixColumn u) (mixColumn v) := by
  ext j hj : 1
  rw [xorWord_getElem]
  simp only [mixColumn_eq_rows, xorWord_getElem, mixRow_xor]
  interval_cases j <;> rfl

theorem invMixColumn_xorWord (u v : Word) :
    invMixColumn (xorWord u v) = xorWord (invMixColumn u) (invMixColumn v) := by
  ext j hj : 1
  rw [xorWord_getElem]
  simp only [invMixColumn_eq_rows, xorWord_getElem, invMixRow_xor]
  interval_cases j <;> rfl

theorem column_xorBlock (x y : Block) (c : Fin 4) : column (xorBlock x y) c = xorWord (column x c) (column y c) := by
  ext j hj : 1
  rw [column_getElem, xorWord_getElem, column_getElem, column_getElem, stateByte_xorBlock]

theorem mixColumns_xorBlock (x y : Block) : mixColumns (xorBlock x y) = xorBlock (mixColumns x) (mixColumns y) :=
  block_ext_column fun c => by
    rw [column_mixColumns, column_xorBlock, mixColumn_xorWord, column_xorBlock, column_mixColumns, column_mixColumns]

theorem invMixColumns_xorBlock (x y : Block) :
    invMixColumns (xorBlock x y) = xorBlock (invMixColumns x) (invMixColumns y) :=
  block_ext_column fun c => by
    rw [column_invMixColumns, column_xorBlock, invMixColumn_xorWord, column_xorBlock, column_invMixColumns,
      column_invMixColumns]

/-- Settles O20: both transforms are linear on each column. -/
theorem mixColumnsIsLinear : Obligations.MixColumnsIsLinear :=
  fun x y => ⟨mixColumns_xorBlock x y, invMixColumns_xorBlock x y⟩

@[simp] theorem invMixColumns_mixColumns (b : Block) : invMixColumns (mixColumns b) = b :=
  block_ext_column fun c => by rw [column_invMixColumns, column_mixColumns, invMixColumn_mixColumn]

@[simp] theorem mixColumns_invMixColumns (b : Block) : mixColumns (invMixColumns b) = b :=
  block_ext_column fun c => by rw [column_mixColumns, column_invMixColumns, mixColumn_invMixColumn]

end Sys2Proof.Machine
end

section
/-! PROOFS. Decrypt against Encrypt (spec/46_orchestrator.md R73, R74, R79), settling O22, O23 and O39: each full round is undone by the round of the other direction, and a fold of such rounds in reverse order undoes the fold. -/

namespace Sys2Proof.Machine

/-- A fold whose steps are undone one by one, under a view `g` of the state, is undone by the reverse fold. -/
theorem foldl_reverse_undoes {α β : Type} {f f' : β → α → β} {g : β → β}
    (hundo : ∀ b a, f' (g (f b a)) a = g b) (as : List α) (b : β) :
    as.reverse.foldl f' (g (as.foldl f b)) = g b := by
  induction as generalizing b with
  | nil => rfl
  | cons a as ih => rw [List.reverse_cons, List.foldl_append, List.foldl_cons (l := as), ih,
    List.foldl_cons, List.foldl_nil, hundo]

/-- R79's derived sentence: InvMixColumns of the sum is the sum of both, so the round is the standard one. -/
theorem decFullRound_eq_standard (sc : Schedule) (r : Round) (b : Block) :
    decFullRound sc r b = invMixColumns (xorBlock (invShiftRows (invSubBytes b)) (roundKey sc r)) := by
  rw [invMixColumns_xorBlock, decFullRound, addRoundKey]

@[simp] theorem addRoundKey_xorBlock (b x : Block) : addRoundKey (xorBlock b x) x = b := addRoundKey_addRoundKey b x

/-- Inverse round r undoes round r, seen after SubBytes and ShiftRows. -/
theorem decFullRound_encFullRound (sc : Schedule) (r : Round) (b : Block) :
    decFullRound sc r (shiftRows (subBytes (encFullRound sc r b))) = shiftRows (subBytes b) := by
  rw [decFullRound_eq_standard, ← invSubBytes_invShiftRows, invShiftRows_shiftRows, invSubBytes_subBytes, encFullRound]
  rw [← addRoundKey, addRoundKey_addRoundKey, invMixColumns_mixColumns]

/-- Round r undoes inverse round r, seen after InvSubBytes and InvShiftRows. -/
theorem encFullRound_decFullRound (sc : Schedule) (r : Round) (b : Block) :
    encFullRound sc r (invShiftRows (invSubBytes (decFullRound sc r b))) = invShiftRows (invSubBytes b) := by
  rw [encFullRound, ← invSubBytes_invShiftRows, subBytes_invSubBytes, shiftRows_invShiftRows, decFullRound_eq_standard,
    mixColumns_invMixColumns, addRoundKey_xorBlock]

/-- Settles O22: the first round key is taken off again, the nine full rounds are undone in reverse order, and the last
one's bytes go back. -/
theorem decryptUndoesEncrypt : Obligations.DecryptUndoesEncrypt := by
  intro key pt
  generalize hsc : keyExpansion key = sc
  rw [decrypt_eq_foldl, encrypt_eq_foldl, hsc, encFinalRound, decInitialRound, addRoundKey_addRoundKey,
    foldl_reverse_undoes (g := fun b => shiftRows (subBytes b)) (fun b r => decFullRound_encFullRound sc r b),
    decFinalRound, ← invSubBytes_invShiftRows, invShiftRows_shiftRows, invSubBytes_subBytes, encInitialRound,
    addRoundKey_addRoundKey]

/-- Settles O23: likewise with the directions exchanged. -/
theorem encryptUndoesDecrypt : Obligations.EncryptUndoesDecrypt := by
  intro key ct
  generalize hsc : keyExpansion key = sc
  have hundo := foldl_reverse_undoes (f' := fun s r => encFullRound sc r s) (g := fun b => invShiftRows (invSubBytes b))
    (fun b r => encFullRound_decFullRound sc r b) fullRounds.reverse (decInitialRound sc ct)
  rw [List.reverse_reverse] at hundo
  rw [encrypt_eq_foldl, decrypt_eq_foldl, hsc, decFinalRound, encInitialRound, addRoundKey_addRoundKey, hundo,
    encFinalRound, ← invSubBytes_invShiftRows, subBytes_invSubBytes, shiftRows_invShiftRows, decInitialRound,
    addRoundKey_addRoundKey]

/-- Settles O39: the CORE's step with its block in the standard order, InvSubBytes and InvShiftRows in either order. -/
theorem decFullRoundStepHasTheStandardOrder : Obligations.DecFullRoundStepHasTheStandardOrder := by
  intro s b sc r hphase hdir hblk hsched hkr h1 h9
  have hstep := decFullRoundStep s b sc r hphase hdir hblk hsched hkr h1 h9
  rw [← decFullRound, decFullRound_eq_standard] at hstep
  exact ⟨hstep, by rw [invSubBytes_invShiftRows]; exact hstep⟩

end Sys2Proof.Machine
end

section
/-! PROOFS. Who moves, and what the HOST's turns do (spec/46_orchestrator.md R81, R82; 30_encoding.md R46, R48; 10_state.md R21, R22), settling O27, O28, O30 to O33 and O41: from the step's equation for each kind of turn. -/

namespace Sys2Proof.Machine

/-- Settles O41: outside PHASE = BUSY the CORE has no step. -/
theorem coreHasNoStepOutsideBusy : Obligations.CoreHasNoStepOutsideBusy := by
  rintro s (hidle | hfault)
  · exact coreStep_not_busy (by simp [hidle])
  · exact coreStep_not_busy (by simp [hfault])

/-- Settles O33: the step's equations for the CORE's turns. -/
theorem turnsOfTheCore : Obligations.TurnsOfTheCore :=
  ⟨fun _ _ => step_core, fun _ => step_empty, fun _ _ => step_wait_busy, fun _ _ => step_wait_done⟩

/-- Settles O30: the turn leaves the agenda, and with start = 0 nothing else happens. -/
theorem stepWithoutStartPresentsNoCommand : Obligations.StepWithoutStartPresentsNoCommand := by
  intro p rest s ha hrst hstart
  rw [step_drive ha, drivePorts_nop hrst hstart]

/-- The command that the word on the ports decodes to is the one its fields select. -/
theorem decode_commandOf_eq_ok_iff (mode : Mode) (key din : Port) (i : Instr) :
    decode (commandOf mode key din).toNat = .ok i ↔ decodeFields mode key din = i := by
  rw [decode_commandOf, Except.ok.injEq]

/-- A table row's word that has a command is a number below 2^258, decoded by its fields. -/
theorem decodeFields_of_decodeTableWord {nbits w : Nat} {i : Instr} (h : decodeTableWord nbits w = some i) :
    decodeFields (commandMode (lowBits nbits w)) (commandKey (lowBits nbits w)) (commandDin (lowBits nbits w)) = i := by
  unfold decodeTableWord at h
  split at h
  · rename_i j hj
    cases h
    by_cases hlt : lowBits nbits w < 2 ^ 258
    · rw [decode_of_lt hlt] at hj
      exact Except.ok.inj hj
    · rw [decode_of_ge (Nat.le_of_not_lt hlt)] at hj
      cases hj
  · cases h

/-- Settles O28: a word is presented by the ports that hold its fields. -/
theorem stepRunsTheDecodedCommand : Obligations.StepRunsTheDecodedCommand := by
  refine ⟨fun p rest i s ha hrst hstart hdecode => ?driven, fun nbits w i s htable => ?placed⟩
  case driven =>
    rw [step_drive ha, drivePorts_start hrst hstart, (decode_commandOf_eq_ok_iff _ _ _ i).mp hdecode]
  case placed =>
    rw [State.withFetchWord, step_drive (State.withAgenda_agenda _ s), State.withAgenda_withAgenda,
      State.withAgenda_self, InPorts.ofWord, drivePorts_start rfl rfl]
    exact congrArg (exec · s) (decodeFields_of_decodeTableWord htable)

/-- Settles O31: each reading is what the output ports show. -/
theorem hostReadsShowTheOutputs : Obligations.HostReadsShowTheOutputs := by
  refine ⟨fun b rest s ha hdout => ⟨?written, ?ports⟩, fun rest s ha hdout => ?unwritten, fun rest s ha => ?status⟩
  case written =>
    rw [step_read ha, hostRead_written (s := s.withAgenda rest) hdout]
    rfl
  case ports => rw [State.outPorts, hdout, Option.map_some]
  case unwritten =>
    rw [step_read ha, hostRead_unwritten (s := s.withAgenda rest) hdout]
    rfl
  case status =>
    rw [step_status ha]
    rfl

theorem roundStep_blk_isSome (d : Direction) (sc : Schedule) (r : Round) (b : Block) (s : State) :
    (roundStep d sc r b s).blk.isSome = true := by
  rcases roundStep_cases d sc r b s with ⟨_, e⟩ | ⟨_, e⟩ <;> simp [e]

/-- Settles O32: what the invariant says is written is what the CORE's step reads. -/
theorem unwrittenRegistersAreNeverReadByTheCore : Obligations.UnwrittenRegistersAreNeverReadByTheCore := by
  refine ⟨fun s => ⟨rfl, rfl, rfl, rfl⟩, fun s hdout => hostRead_unwritten hdout, fun s hinv hbusy => ?written,
    fun s hbusy hk => ?free⟩
  case written =>
    obtain ⟨d, hd⟩ := Option.isSome_iff_exists.mp (hinv.dir_written hbusy)
    obtain ⟨b, hb⟩ := Option.isSome_iff_exists.mp (hinv.blk_written hbusy)
    obtain ⟨sc, hsc⟩ := Option.isSome_iff_exists.mp (hinv.sched_written hbusy)
    have hk : s.k.toNat < 11 := Nat.lt_succ_of_le hinv.k_le
    exact ⟨d, b, sc, hk, hd, hb, hsc, coreStep_busy hbusy hd hb hsc hk⟩
  case free => exact ⟨_, coreStep_runs hbusy (Nat.lt_succ_of_le hk), roundStep_blk_isSome _ _ _ _ _⟩

/-- An accepted command leaves PHASE = IDLE, and BUSY or ERR shows it (R72, R84). -/
theorem acceptedEffect_leaves_idle (i : Instr) (s : State) :
    (acceptedEffect i s).phase ≠ .idle ∧ ((acceptedEffect i s).busy = true ∨ (acceptedEffect i s).err = true) := by
  cases i <;> simp [acceptedEffect]

theorem acceptedEffect_withAgenda (i : Instr) (ts : List Turn) (s : State) :
    (acceptedEffect i s).withAgenda ts = acceptedEffect i (s.withAgenda ts) := by
  cases i <;> rfl

/-- A turn that presents a command runs it, having left the agenda. -/
theorem step_presents {s : State} {i : Instr} {rest : List Turn}
    (ha : s.agenda = .drive (startPorts i.mode i.key i.din) :: rest) : step s = exec i (s.withAgenda rest) := by
  rw [step_start ha, decodeFields_mode_key_din]

theorem runSteps_one (s : State) : runSteps 1 s = step s := by
  rw [runSteps]
  cases step s <;> rfl

/-- Settles O27: the first command leaves PHASE = IDLE, so the second is ignored. -/
theorem secondCommandWithoutWaitingIsLost : Obligations.SecondCommandWithoutWaitingIsLost := by
  intro i j s rest hidle ha
  obtain ⟨hphase, hflag⟩ := acceptedEffect_leaves_idle i (s.withAgenda rest).clearDone
  have hfirst := (step_presents ha).trans (exec_idle (s := s.withAgenda (_ :: rest)) hidle i)
  refine ⟨_, exec_idle (s := s.withAgenda rest) hidle i, ?_, hflag⟩
  rw [runSteps_add (m := 1) ((runSteps_one s).trans hfirst) 1, runSteps_one, step_presents (acceptedEffect_agenda i _),
    acceptedEffect_withAgenda]
  exact exec_ignored hphase j

end Sys2Proof.Machine
end

section
/-! PROOFS. From the accept step to the completion (spec/46_orchestrator.md R73, R74, R82; 70_reset_and_hazards.md R98; 10_state.md R24), settling O50 to O52 and O54: the state at the entry of round step n of a command, the eleven CORE steps through it, and the turns that may stand between them. -/

namespace Sys2Proof.Machine

/-- The state in which a command of direction d has come to the entry of round step n; what the command does not write
is that of `s`. -/
def State.atRound (d : Direction) (key din : Port) (n : Nat) (s : State) : State :=
  { s with
    dir := some d
    sched := some (keyExpansion (blockOfPort key))
    blk := some (blockAtRound d (keyExpansion (blockOfPort key)) (blockOfPort din) n)
    phase := .busy
    k := BitVec.ofNat 4 n
    busy := true
    done := false }

/-- The state in which the command has completed. -/
def State.completed (d : Direction) (key din : Port) (s : State) : State :=
  { s with
    dir := some d
    sched := some (keyExpansion (blockOfPort key))
    blk := some (cipherResult d key din)
    dout := some (cipherResult d key din)
    phase := .idle
    k := 0
    busy := false
    done := true }

/-- Outside PHASE = IDLE a HOST step without reset changes nothing (R46, R81). -/
theorem drivePorts_not_idle {p : InPorts} {s : State} (hrst : p.rst = false) (h : s.phase ≠ .idle) :
    drivePorts p s = .next s := by
  cases hstart : p.start with
  | true => rw [drivePorts_start hrst hstart, exec_ignored h]
  | false => rw [drivePorts_nop hrst hstart]

/-- The state with another agenda and list of what the HOST has read: the same registers. -/
def State.withHost (ts : List Turn) (os : List Observation) (s : State) : State :=
  { s with agenda := ts, observed := os }

section Course

variable {d : Direction} {key din : Port} {s : State}

/-- The accept step puts the command at round 0 (R72). -/
theorem accept_eq_atRound (s : State) : s.clearDone.accept d key din = s.atRound d key din 0 := rfl

theorem atRound_k_toNat {n : Nat} (hn : n ≤ 10) : (s.atRound d key din n).k.toNat = n :=
  Nat.mod_eq_of_lt (by omega : n < 2 ^ 4)

theorem coreStep_atRound {n : Nat} (hn : n < 10) :
    coreStep (s.atRound d key din n) = .next (s.atRound d key din (n + 1)) := by
  have hround : (⟨n, by omega⟩ : Round) ≠ 10 := fun h => absurd (congrArg Fin.val h) (Nat.ne_of_lt hn)
  rw [coreStep_advances (s := s.atRound d key din n) rfl rfl rfl rfl (r := ⟨n, by omega⟩)
    (atRound_k_toNat (Nat.le_of_lt hn)) hround, ← blockAtRound_succ]
  simp only [State.advance, State.atRound, BitVec.ofNat_add]
  rfl

theorem coreStep_atRound_last : coreStep (s.atRound d key din 10) = .next (s.completed d key din) := by
  have hresult : roundBlock d (keyExpansion (blockOfPort key)) 10
      (blockAtRound d (keyExpansion (blockOfPort key)) (blockOfPort din) 10) = cipherResult d key din :=
    (blockAtRound_succ d _ _ 10).symm.trans (blockAtRound_eleven d key din)
  rw [coreStep_completes (s := s.atRound d key din 10) rfl rfl rfl rfl rfl, hresult]
  rfl

/-- The step that presents the command of direction d to an idle core. -/
theorem step_start_atRound {rest : List Turn} (hidle : s.phase = .idle)
    (ha : s.agenda = .drive (startPorts d.modeCode key din) :: rest) :
    step s = .next ((s.withAgenda rest).atRound d key din 0) := by
  obtain ⟨_, p, rest', ha', _, _, _, _, _, hstep⟩ := acceptedCommand_cases (acceptedCommand_start hidle ha)
  obtain ⟨_, rfl⟩ := List.cons.inj (ha.symm.trans ha')
  exact hstep

/-- While the HOST waits each step is the CORE's: n steps reach round n. -/
theorem runSteps_wait {rest : List Turn} (ha : s.agenda = .wait :: rest) {n : Nat} (hn : n ≤ 10) :
    runSteps n (s.atRound d key din 0) = .next (s.atRound d key din n) := by
  induction n with
  | zero => rfl
  | succ n ih =>
    rw [runSteps_add (ih (Nat.le_of_succ_le hn)) 1, runSteps_one,
      step_wait_busy (s := s.atRound d key din n) ha rfl, coreStep_atRound hn]

/-- Accept, eleven CORE steps and the end of the wait: 13 steps to the completion (R73, R74). -/
theorem runSteps_command_wait {rest : List Turn} (hidle : s.phase = .idle)
    (ha : s.agenda = .drive (startPorts d.modeCode key din) :: .wait :: rest) :
    runSteps 13 s = .next ((s.withAgenda rest).completed d key din) := by
  have hstart : runSteps 1 s = .next ((s.withAgenda (.wait :: rest)).atRound d key din 0) :=
    (runSteps_one s).trans (step_start_atRound hidle ha)
  have hrounds := runSteps_wait (d := d) (key := key) (din := din) (s := s.withAgenda (.wait :: rest)) rfl le_rfl
  have hlast : runSteps 1 ((s.withAgenda (.wait :: rest)).atRound d key din 10) =
      .next ((s.withAgenda (.wait :: rest)).completed d key din) := by
    rw [runSteps_one, step_wait_busy (s := (s.withAgenda _).atRound d key din 10) rfl rfl, coreStep_atRound_last]
  have hend : runSteps 1 ((s.withAgenda (.wait :: rest)).completed d key din) =
      .next ((s.withAgenda rest).completed d key din) := by
    rw [runSteps_one, step_wait_done (s := (s.withAgenda _).completed d key din) rfl rfl]
    rfl
  rw [runSteps_add hstart 12, runSteps_add hrounds 2, runSteps_add hlast 1, hend]

/-- One turn that keeps the operation: the CORE's goes on by a round, any other leaves the round; of what `s` holds only
the HOST's fields change. -/
theorem step_atRound {u : Turn} {rest : List Turn} {n : Nat} (hu : u.keepsOperation = true)
    (hn : n + (if u == .core then 1 else 0) ≤ 10) (ha : s.agenda = u :: rest) :
    ∃ os, step (s.atRound d key din n) = .next
      ((s.withHost rest os).atRound d key din (n + if u == .core then 1 else 0)) := by
  have haround : (s.atRound d key din n).agenda = u :: rest := ha
  cases u with
  | core =>
    refine ⟨s.observed, ?_⟩
    rw [step_core haround]
    exact coreStep_atRound (s := s.withAgenda rest) hn
  | drive p =>
    refine ⟨s.observed, ?_⟩
    have hrst : p.rst = false := by simpa [Turn.keepsOperation] using hu
    rw [step_drive haround, drivePorts_not_idle hrst (by simp [State.atRound])]
    rfl
  | wait => cases hu
  | read =>
    obtain ⟨o, ho⟩ := hostRead_observes ((s.atRound d key din n).withAgenda rest)
    refine ⟨o :: s.observed, ?_⟩
    rw [step_read haround, ho]
    rfl
  | status =>
    refine ⟨.status true false s.err :: s.observed, ?_⟩
    rw [step_status haround]
    rfl

/-- The turns of an interleaving take the operation on by as many rounds as turns of the CORE stand among them: by
induction on the turns. -/
theorem runSteps_turns {turns rest : List Turn} {n : Nat} (hkeep : turns.all Turn.keepsOperation = true)
    (hn : n + turns.count .core ≤ 10) (ha : s.agenda = turns ++ rest) :
    ∃ os, runSteps turns.length (s.atRound d key din n) = .next
      ((s.withHost rest os).atRound d key din (n + turns.count .core)) := by
  induction turns generalizing s n with
  | nil =>
    obtain rfl : s.agenda = rest := ha
    exact ⟨s.observed, rfl⟩
  | cons u us ih =>
    obtain ⟨hu, hus⟩ := Bool.and_eq_true_iff.mp (List.all_cons.symm.trans hkeep)
    have hcount : n + (u :: us).count .core = n + (if u == .core then 1 else 0) + us.count .core := by
      rw [List.count_cons]
      omega
    rw [hcount] at hn ⊢
    obtain ⟨os, hstep⟩ :=
      step_atRound (d := d) (key := key) (din := din) (rest := us ++ rest) (n := n) hu (by omega) ha
    obtain ⟨os', hrun⟩ := ih (s := s.withHost (us ++ rest) os) hus hn rfl
    refine ⟨os', ?_⟩
    rw [List.length_cons, Nat.add_comm]
    exact (runSteps_add ((runSteps_one _).trans hstep) _).trans hrun

/-- The whole run up to a turn at which at most ten CORE steps have been taken. -/
theorem runSteps_start_turns {turns rest : List Turn} (hidle : s.phase = .idle)
    (ha : s.agenda = .drive (startPorts d.modeCode key din) :: (turns ++ rest))
    (hkeep : turns.all Turn.keepsOperation = true) (hcount : turns.count .core ≤ 10) :
    ∃ os, runSteps (1 + turns.length) s = .next
      ((s.withHost rest os).atRound d key din (turns.count .core)) := by
  obtain ⟨os, hrun⟩ :=
    runSteps_turns (d := d) (key := key) (din := din) (s := s.withAgenda (turns ++ rest)) (n := 0) hkeep (by omega) rfl
  rw [Nat.zero_add] at hrun
  exact ⟨os, (runSteps_add ((runSteps_one s).trans (step_start_atRound hidle ha)) _).trans hrun⟩

end Course

/-- The word of a command, put on the ports, is the start with its mode, key and din. -/
theorem ofWord_encode (i : Instr) : InPorts.ofWord (encode i).toNat = startPorts i.mode i.key i.din := by
  rw [InPorts.ofWord, encode, commandMode_commandOf, commandKey_commandOf, commandDin_commandOf]

/-- Settles O50: the run of `runSteps_command_wait` in direction 0. -/
theorem encCommandCompletesWithTheCiphertext : Obligations.EncCommandCompletesWithTheCiphertext := by
  intro key din rest s hidle ha
  rw [ofWord_encode] at ha
  exact runSteps_command_wait (d := .forward) hidle ha

/-- Settles O51: the run of `runSteps_command_wait` in direction 1. -/
theorem decCommandCompletesWithThePlaintext : Obligations.DecCommandCompletesWithThePlaintext := by
  intro key din rest s hidle ha
  rw [ofWord_encode] at ha
  exact runSteps_command_wait (d := .inverse) hidle ha

/-- Settles O52: up to ten CORE steps the operation is at its round, and the eleventh completes it. -/
theorem operationCompletesAfterElevenCoreSteps : Obligations.OperationCompletesAfterElevenCoreSteps := by
  intro d key din turns rest s hidle ha hkeep
  refine ⟨fun hcount => ?running, fun before hturns hcount => ?completing⟩
  case running =>
    obtain ⟨os, hrun⟩ := runSteps_start_turns hidle ha hkeep hcount
    exact ⟨_, hrun, rfl, rfl, rfl, rfl, rfl, atRound_k_toNat hcount⟩
  case completing =>
    subst hturns
    have hten : before.count .core = 10 := by simpa using hcount
    have hkeep' : before.all Turn.keepsOperation = true := by simp_all
    rw [List.append_assoc] at ha
    obtain ⟨os, hrun⟩ := runSteps_start_turns hidle ha hkeep' hten.le
    rw [hten] at hrun
    have hlast : step ((s.withHost ([.core] ++ rest) os).atRound d key din 10) =
        .next ((s.withHost rest os).completed d key din) := by
      rw [step_core rfl]
      exact coreStep_atRound_last (s := s.withHost rest os)
    have hall := (runSteps_add hrun 1).trans ((runSteps_one _).trans hlast)
    rw [List.length_append, List.length_singleton, ← Nat.add_assoc]
    exact ⟨_, hall, rfl, rfl, rfl, rfl, rfl, rfl, rfl⟩

/-- Settles O54: both runs complete the same command, and a completed state takes only ERR and the HOST's list from the
state before. -/
theorem operationsAreIndependent : Obligations.OperationsAreIndependent := by
  intro i rest s s' hidle hidle' hvalid ha ha'
  obtain ⟨d, hd⟩ : ∃ d : Direction, i.mode = d.modeCode := by
    rcases hvalid with h | h <;> rw [h]
    · exact ⟨.forward, rfl⟩
    · exact ⟨.inverse, rfl⟩
  rw [hd] at ha
  exact ⟨_, _, runSteps_command_wait hidle ha, runSteps_command_wait hidle' (ha'.trans ha), rfl⟩

end Sys2Proof.Machine
end
